-- ==== Sys2Proof/Word.lean ====
section
/-! DEFINITION. The word types of the engine (00_scope.md R8: every quantity is unsigned). -/

namespace Sys2Proof

/-- `u32`: a register value, a target address, a count, a clock reading. -/
abbrev Word := BitVec 32

/-- `u8`: a byte of the host buffer, a host opcode, an AP select. -/
abbrev Byte := BitVec 8

end Sys2Proof
end

