-- ==== Sys2Proof/Config.lean ====
section
/-! DEFINITION. The parameters of 00_scope.md R7, the named constants, and the free values.

A parameter the spec leaves to the implementation is a field of `Config`; `State` carries one record and no
operation writes it (log 7). A number the spec fixes is a named constant. A value the spec calls unspecified or
undefined is an `opaque` constant (log 13). -/

namespace Sys2Proof

/-- `VARIANT`: which of the two links a DebugPort speaks (R2, R7, R21). -/
inductive Variant
  | swd
  | jtag
deriving DecidableEq, Repr, Inhabited

/-- The configuration record of R7: the parameters whose value a run may vary. -/
structure Config where
  /-- `WAIT_TIMEOUT_MS`: the bound of the WAIT retry window, reference value 2000 (R135, U23). -/
  waitTimeoutMs : Word
  /-- How far `LINE_RESET_HIGH_CYCLES` lies above its minimum of 50 (R240, R313, U24, log 7). -/
  lineResetExtraCycles : Nat
  /-- How far `TAR_WRAP_BITS` lies above the two offset bits of a word unit, so that it is 2 to 32; OPEN, the source's
  "commonly" is 10 (R7, R62, R206, U18, log 30). -/
  tarWrapExtraBits : Fin 31
  /-- `AP_SCAN_STOP_AT_FIRST_ZERO`: OPEN in the source, a model argument (R250, U19). -/
  apScanStopAtFirstZero : Bool
  /-- `FLUSH_ON_NON_OK`: a flush also after WAIT, FAULT or an invalid ACK; the spec's value is false (R95, D8). -/
  flushOnNonOk : Bool
  /-- `JTAG_ACK_OK`: OPEN, default the SWD code (R99, U9). -/
  jtagAckOk : BitVec 3
  /-- `JTAG_ACK_WAIT`: OPEN, default the SWD code (R99, U9). -/
  jtagAckWait : BitVec 3
  /-- `JTAG_ACK_FAULT`: OPEN, default the SWD code (R99, U9). -/
  jtagAckFault : BitVec 3
  /-- `JTAG_POSTED`: a scan's response belongs to the scan before; the spec's default is false (R133, U11, log 21). -/
  jtagPosted : Bool
  /-- `CSW_BASE(s)`: the CSW bits outside Size and AddrInc; an AP not listed has the default 0 (R101, D16). -/
  cswBase : List (Byte × Word)
deriving DecidableEq, Repr

namespace Config

/-- `ACK_OK` (R7, R93). -/
def ackOk : BitVec 3 := 0b001#3
/-- `ACK_WAIT` (R7, R93). -/
def ackWait : BitVec 3 := 0b010#3
/-- `ACK_FAULT` (R7, R93). -/
def ackFault : BitVec 3 := 0b100#3

/-- The values of R7; `apScanStopAtFirstZero` has no default in the source and is the model's choice (log 7). -/
def standard : Config where
  waitTimeoutMs := 2000
  lineResetExtraCycles := 0
  tarWrapExtraBits := 8
  apScanStopAtFirstZero := true
  flushOnNonOk := false
  jtagAckOk := ackOk
  jtagAckWait := ackWait
  jtagAckFault := ackFault
  jtagPosted := false
  cswBase := []

/-- The fewest ones in each run of the line reset: "at least 50 high cycles" (R313, U24). -/
def lineResetMinCycles : Nat := 50
/-- `LINE_RESET_HIGH_CYCLES`: ones in each run of the line reset, never below the minimum (R7, R240, R313). -/
def lineResetHighCycles (c : Config) : Nat := lineResetMinCycles + c.lineResetExtraCycles

/-- The fewest low address bits of an auto-increment block: a word unit, the largest of R203, fits (R206, log 30). -/
def tarWrapMinBits : Nat := 2
/-- `TAR_WRAP_BITS`: the low address bits over which auto-increment is trusted (R7, R62, R206, U18). -/
def tarWrapBits (c : Config) : Nat := tarWrapMinBits + c.tarWrapExtraBits.val

/-- `CLOCK_BITS`: the width of the millisecond counter, that of a `Word` (R7, R13 b). -/
def clockBits : Nat := 32
/-- `SWITCH_SEQ`: the JTAG-to-SWD sequence (R7, R105). -/
def switchSeq : BitVec 16 := 0xE79E#16
/-- `IDCODE_REQ`: the SWD request byte of the IDCODE read (R7, R105). -/
def idcodeReq : Byte := 0xA5#8
/-- `FLUSH_BITS` (R7, R95). -/
def flushBits : Nat := 8
/-- `FLUSH_VALUE` (R7, R95). -/
def flushValue : Byte := 0x00#8
/-- `APSEL_COUNT` (R7, R248). -/
def apselCount : Nat := 256
/-- `JTAG_IR_BITS` (R7, R97). -/
def jtagIrBits : Nat := 4
/-- `IR_DPACC` (R7, R97). -/
def irDpacc : BitVec 4 := 0b1010#4
/-- `IR_APACC` (R7, R97). -/
def irApacc : BitVec 4 := 0b1011#4
/-- `JTAG_DR_BITS`: 32 data bits, RnW and two address bits (R7, R98). -/
def jtagDrBits : Nat := 35

/-- DP_IDCODE on a read, DP_ABORT on a write (R103). -/
def dpIdcode : BitVec 9 := 0x000#9
/-- DP_ABORT (R103): the write side of offset 0. -/
def dpAbort : BitVec 9 := 0x000#9
/-- DP_CTRLSTAT (R103). -/
def dpCtrlStat : BitVec 9 := 0x004#9
/-- DP_SELECT (R103). -/
def dpSelect : BitVec 9 := 0x008#9
/-- DP_RDBUFF (R103). -/
def dpRdbuff : BitVec 9 := 0x00C#9
/-- AP_CSW (R103). -/
def apCsw : BitVec 9 := 0x100#9
/-- AP_TAR (R103). -/
def apTar : BitVec 9 := 0x104#9
/-- AP_DRW (R103). -/
def apDrw : BitVec 9 := 0x10C#9
/-- AP_BASE (R103). -/
def apBase : BitVec 9 := 0x1F8#9
/-- AP_IDR (R103). -/
def apIdr : BitVec 9 := 0x1FC#9

/-- DAPABORT, bit 0 of ABORT (R102). -/
def dapAbort : Word := 0x01#32
/-- STKCMPCLR (R102). -/
def stkCmpClr : Word := 0x02#32
/-- STKERRCLR (R102). -/
def stkErrClr : Word := 0x04#32
/-- WDERRCLR (R102). -/
def wdErrClr : Word := 0x08#32
/-- ORUNERRCLR (R102). -/
def orunErrClr : Word := 0x10#32
/-- STICKYORUN: its bit of CTRL/STAT (R33). -/
def stickyOrunBit : Nat := 1
/-- STICKYCMP (R33). -/
def stickyCmpBit : Nat := 4
/-- STICKYERR (R33). -/
def stickyErrBit : Nat := 5
/-- WDATAERR (R33). -/
def wDataErrBit : Nat := 7
/-- The four sticky bits of CTRL/STAT, the mask 0x000000B2 (R33, R163). -/
def stickyMask : Word :=
  1#32 <<< stickyOrunBit ||| 1#32 <<< stickyCmpBit ||| 1#32 <<< stickyErrBit ||| 1#32 <<< wDataErrBit

/-- CSW Size: its lowest bit (R40, R101). -/
def cswSizeLsb : Nat := 0
/-- CSW Size: its width (R40, R101). -/
def cswSizeBits : Nat := 3
/-- CSW AddrInc: its lowest bit (R40, R101). -/
def cswIncLsb : Nat := 4
/-- CSW AddrInc: its width (R40, R101). -/
def cswIncBits : Nat := 2
/-- CSW Size and AddrInc, bits [2:0] and [5:4]: what `CSW_BASE` does not give (R101). -/
def cswFieldMask : Word := 0x00000037#32
/-- CSW Size byte, the size mode 0 (R24, R40). -/
def sizeByte : BitVec 2 := 0
/-- CSW Size halfword, the size mode 1 (R24, R40). -/
def sizeHalf : BitVec 2 := 1
/-- CSW Size word, the size mode 2 (R24, R40). -/
def sizeWord : BitVec 2 := 2
/-- CSW AddrInc off (R40). -/
def incOff : BitVec 2 := 0
/-- CSW AddrInc single (R24, R40). -/
def incSingle : BitVec 2 := 1

/-! ### The host opcodes (R107) -/

def opDpScan : Byte := 0x01#8
def opDpAttachJtag : Byte := 0x02#8
def opDetach : Byte := 0x03#8
def opLowAccessRd : Byte := 0x10#8
def opLowAccessWr : Byte := 0x11#8
def opDpRead : Byte := 0x12#8
def opDpWrite : Byte := 0x13#8
def opDpError : Byte := 0x14#8
def opDpAbort : Byte := 0x15#8
def opApScan : Byte := 0x20#8
def opApRead : Byte := 0x21#8
def opApWrite : Byte := 0x22#8
def opMemRead : Byte := 0x23#8
def opMemWrite : Byte := 0x24#8
def opCacheInvalidate : Byte := 0x2F#8

/-! ### Free values (log 13) -/

/-- `dp.idcode` where R50 calls it unspecified: after a failed scan and after DETACH. -/
opaque freeIdcode : Nat → Word
/-- `dp.variant` where R50 calls it unspecified. -/
opaque freeVariant : Nat → Variant
/-- `ap[s].idr` where R50 calls it unspecified: after a scan, an attach and DETACH. -/
opaque freeIdr : Nat → Byte → Word
/-- `t0` between accesses: "Undefined between accesses" (R26). -/
opaque freeT0 : Nat → Word
/-- `win.sz` between commands: "holds no defined value between commands" (R24). -/
opaque freeWinSz : Nat → BitVec 2
/-- `win.inc` between commands (R24). -/
opaque freeWinInc : Nat → BitVec 2
/-- `win.a` between commands (R24). -/
opaque freeWinA : Nat → Word
/-- `win.done` between commands (R24). -/
opaque freeWinDone : Nat → Word
/-- `win.units` between commands (R24). -/
opaque freeWinUnits : Nat → Word

end Config

end Sys2Proof
end

