-- ==== Sys2Proof/Syntax.lean ====
section
/-! DEFINITION. The instructions: one constructor for each row of the opcode table.

The rows are of two kinds. Link operations (30_encoding.md sections 1 to 4 and 7) are what the engine sends and receives
on the link, in the phase it is in; host commands (section 8) are what the host writes to CMD, their operands standing
in the operand registers (R106). -/

namespace Sys2Proof

inductive Instr
  /-- SWD.DP.WR.0, request byte 0x81: ABORT (R92). -/
  | swdDpWr0
  /-- SWD.DP.RD.0, request byte 0xA5: IDCODE (R92). -/
  | swdDpRd0
  /-- SWD.DP.WR.4, request byte 0xA9: CTRL/STAT (R92). -/
  | swdDpWr4
  /-- SWD.DP.RD.4, request byte 0x8D: CTRL/STAT (R92). -/
  | swdDpRd4
  /-- SWD.DP.WR.8, request byte 0xB1: SELECT (R92). -/
  | swdDpWr8
  /-- SWD.DP.RD.8, request byte 0x95: not named by the source (R92). -/
  | swdDpRd8
  /-- SWD.DP.WR.C, request byte 0x99: not named by the source (R92). -/
  | swdDpWrC
  /-- SWD.DP.RD.C, request byte 0xBD: RDBUFF (R92). -/
  | swdDpRdC
  /-- SWD.AP.WR.0, request byte 0xA3: AP bank register 0 (CSW in bank 0) (R92). -/
  | swdApWr0
  /-- SWD.AP.RD.0, request byte 0x87: AP bank register 0 (CSW in bank 0) (R92). -/
  | swdApRd0
  /-- SWD.AP.WR.4, request byte 0x8B: AP bank register 1 (TAR in bank 0) (R92). -/
  | swdApWr4
  /-- SWD.AP.RD.4, request byte 0xAF: AP bank register 1 (TAR in bank 0) (R92). -/
  | swdApRd4
  /-- SWD.AP.WR.8, request byte 0x93: AP bank register 2 (BASE in bank 0xF) (R92). -/
  | swdApWr8
  /-- SWD.AP.RD.8, request byte 0xB7: AP bank register 2 (BASE in bank 0xF) (R92). -/
  | swdApRd8
  /-- SWD.AP.WR.C, request byte 0xBB: AP bank register 3 (DRW in bank 0, IDR in bank 0xF) (R92). -/
  | swdApWrC
  /-- SWD.AP.RD.C, request byte 0x9F: AP bank register 3 (DRW in bank 0, IDR in bank 0xF) (R92). -/
  | swdApRdC
  /-- JTAG.DP.WR.0, DR bits [2:0] = 0b000 under DPACC: ABORT (R98); DR bits [34:3] are write data. -/
  | jtagDpWr0 (data : Word)
  /-- JTAG.DP.RD.0, DR bits [2:0] = 0b001 under DPACC: IDCODE (R98); DR bits [34:3] are zero on a read. -/
  | jtagDpRd0 (data : Word)
  /-- JTAG.DP.WR.4, DR bits [2:0] = 0b010 under DPACC: CTRL/STAT (R98); DR bits [34:3] are write data. -/
  | jtagDpWr4 (data : Word)
  /-- JTAG.DP.RD.4, DR bits [2:0] = 0b011 under DPACC: CTRL/STAT (R98); DR bits [34:3] are zero on a read. -/
  | jtagDpRd4 (data : Word)
  /-- JTAG.DP.WR.8, DR bits [2:0] = 0b100 under DPACC: SELECT (R98); DR bits [34:3] are write data. -/
  | jtagDpWr8 (data : Word)
  /-- JTAG.DP.RD.8, DR bits [2:0] = 0b101 under DPACC: not named by the source (R98); DR bits [34:3] are zero on a read. -/
  | jtagDpRd8 (data : Word)
  /-- JTAG.DP.WR.C, DR bits [2:0] = 0b110 under DPACC: not named by the source (R98); DR bits [34:3] are write data. -/
  | jtagDpWrC (data : Word)
  /-- JTAG.DP.RD.C, DR bits [2:0] = 0b111 under DPACC: RDBUFF (R98); DR bits [34:3] are zero on a read. -/
  | jtagDpRdC (data : Word)
  /-- JTAG.AP.WR.0, DR bits [2:0] = 0b000 under APACC: AP bank register 0 (CSW in bank 0) (R98); DR bits [34:3] are write data. -/
  | jtagApWr0 (data : Word)
  /-- JTAG.AP.RD.0, DR bits [2:0] = 0b001 under APACC: AP bank register 0 (CSW in bank 0) (R98); DR bits [34:3] are zero on a read. -/
  | jtagApRd0 (data : Word)
  /-- JTAG.AP.WR.4, DR bits [2:0] = 0b010 under APACC: AP bank register 1 (TAR in bank 0) (R98); DR bits [34:3] are write data. -/
  | jtagApWr4 (data : Word)
  /-- JTAG.AP.RD.4, DR bits [2:0] = 0b011 under APACC: AP bank register 1 (TAR in bank 0) (R98); DR bits [34:3] are zero on a read. -/
  | jtagApRd4 (data : Word)
  /-- JTAG.AP.WR.8, DR bits [2:0] = 0b100 under APACC: AP bank register 2 (BASE in bank 0xF) (R98); DR bits [34:3] are write data. -/
  | jtagApWr8 (data : Word)
  /-- JTAG.AP.RD.8, DR bits [2:0] = 0b101 under APACC: AP bank register 2 (BASE in bank 0xF) (R98); DR bits [34:3] are zero on a read. -/
  | jtagApRd8 (data : Word)
  /-- JTAG.AP.WR.C, DR bits [2:0] = 0b110 under APACC: AP bank register 3 (DRW in bank 0, IDR in bank 0xF) (R98); DR bits [34:3] are write data. -/
  | jtagApWrC (data : Word)
  /-- JTAG.AP.RD.C, DR bits [2:0] = 0b111 under APACC: AP bank register 3 (DRW in bank 0, IDR in bank 0xF) (R98); DR bits [34:3] are zero on a read. -/
  | jtagApRdC (data : Word)
  /-- JTAG.IR.DPACC: select the DPACC instruction register (R97). -/
  | jtagIrDpacc
  /-- JTAG.IR.APACC: select the APACC instruction register (R97). -/
  | jtagIrApacc
  /-- ACK.OK: 0b001, proceed to the data phase (R93, R134). -/
  | ackOk
  /-- ACK.WAIT: 0b010, retry within the window (R93, R135). -/
  | ackWait
  /-- ACK.FAULT: 0b100, latch the fault (R93, R137). -/
  | ackFault
  /-- ACK.INVALID.0: 0b000, a protocol error (R93, R138). -/
  | ackInvalid0
  /-- ACK.INVALID.3: 0b011, a protocol error (R93, R138). -/
  | ackInvalid3
  /-- ACK.INVALID.5: 0b101, a protocol error (R93, R138). -/
  | ackInvalid5
  /-- ACK.INVALID.6: 0b110, a protocol error (R93, R138). -/
  | ackInvalid6
  /-- ACK.INVALID.7: 0b111, a protocol error (R93, R138). -/
  | ackInvalid7
  /-- SWD.DATA: the 33-bit data phase, 32 data bits then their parity bit (R94). -/
  | swdData (data : Word) (parity : Bool)
  /-- SWD.FLUSH: eight idle bits (R95). -/
  | swdFlush
  /-- SWD.JTAG2SWD: the switch sequence 0xE79E inside the line reset (R105). -/
  | swdJtag2Swd
  /-- DP_SCAN: host opcode 0x01 (R107, R240). -/
  | dpScan
  /-- DP_ATTACH_JTAG: host opcode 0x02 (R107, R247). -/
  | dpAttachJtag
  /-- DETACH: host opcode 0x03 (R107, R252). -/
  | detach
  /-- LOW_ACCESS_RD: host opcode 0x10 (R107, R143). -/
  | lowAccessRd
  /-- LOW_ACCESS_WR: host opcode 0x11 (R107, R143). -/
  | lowAccessWr
  /-- DP_READ: host opcode 0x12 (R107, R160). -/
  | dpRead
  /-- DP_WRITE: host opcode 0x13 (R107, R162). -/
  | dpWrite
  /-- DP_ERROR: host opcode 0x14 (R107, R163). -/
  | dpError
  /-- DP_ABORT: host opcode 0x15 (R107, R164). -/
  | dpAbort
  /-- AP_SCAN: host opcode 0x20 (R107, R248). -/
  | apScan
  /-- AP_READ: host opcode 0x21 (R107, R181). -/
  | apRead
  /-- AP_WRITE: host opcode 0x22 (R107, R182). -/
  | apWrite
  /-- MEM_READ: host opcode 0x23 (R107, R200). -/
  | memRead
  /-- MEM_WRITE: host opcode 0x24 (R107, R200). -/
  | memWrite
  /-- CACHE_INVALIDATE: host opcode 0x2F (R107, R184). -/
  | cacheInvalidate
deriving DecidableEq, Repr

end Sys2Proof
end

