-- ==== Sys2Proof/Machine/State.lean ====
section
/-! DEFINITION. The state of the engine (10_state.md), with the model's own fields for the position inside a command and
for what goes in and out of the three ports (logs 1 to 6). -/

namespace Sys2Proof.Machine

/-! ### The spec's records -/

/-- The DebugPort record (R21). -/
structure DebugPort where
  /-- a DebugPort exists -/
  valid : Bool
  /-- the value read by the scan -/
  idcode : Word
  /-- the latched FAULT acknowledge, sticky (R30) -/
  fault : Bool
  /-- what the engine last wrote to SELECT: AP select and bank -/
  selCache : Option (Byte × BitVec 4)
  /-- which link procedure is in use -/
  variant : Variant
deriving DecidableEq, Repr

/-- An AccessPort record (R22); its object exists, `present`, from discovery to detach. -/
structure AccessPort where
  /-- an AccessPort object exists for this select -/
  present : Bool
  /-- the IDR value read at discovery -/
  idr : Word
  /-- the CSW value the engine believes the physical register holds -/
  cswCache : Option Word
  /-- the TAR value the engine believes the physical register holds -/
  tarCache : Option Word
deriving DecidableEq, Repr

/-- The Memory Access Window (R24). -/
structure Window where
  /-- size mode: 0 byte, 1 halfword, 2 word -/
  sz : BitVec 2
  /-- auto-increment mode -/
  inc : BitVec 2
  /-- the address of the next unit -/
  a : Word
  /-- units confirmed transferred so far -/
  done : Word
  /-- units to transfer in all -/
  units : Word
deriving DecidableEq, Repr

/-- The states of the ACK state machine (R25, R140). -/
inductive Fsm
  | idle
  | requestSent
  | dataPhase
  | retrying
  | faulted
  | protocolError
  | timeoutError
deriving DecidableEq, Repr

/-- The host command port registers (R27). RSP_FAULT is no field: it reads `dp.fault` live. -/
structure HostPort where
  cmd : Byte
  argAp : Byte
  argAddr : Word
  argValue : Word
  argLen : Word
  rspStatus : BitVec 3
  rspValue : Word
  rspCount : Word
deriving DecidableEq, Repr

/-- The result codes of R111 (code 7 is reserved and never written). -/
inductive Status
  | ok
  | timeout
  | protocolError
  | memoryFault
  | noDp
  | badAp
  | badCmd
deriving DecidableEq, Repr

/-- The outcome of a `low_access` that did not raise (R130). -/
inductive AccessOutcome
  | ok
  | fault
  | skipped
deriving DecidableEq, Repr

/-- What a `raise` reports (R260): the two causes of a ProtocolError share a status. -/
inductive Condition
  | timeout
  | badAck
  | parity
deriving DecidableEq, Repr

/-! ### The ports -/

/-- A call on the tap port or the clock port (R10, R11). -/
inductive TapCall
  | init
  | seqOut (v : Word) (n : Nat)
  | bitOut (b : Bool)
  | seqIn (n : Nat)
  | seqInPar (n : Nat)
  | seqOutPar (v : Word) (n : Nat)
  | jtagIr (c : BitVec 4)
  | jtagDr (o : BitVec 35)
  | nowMs
deriving DecidableEq, Repr

/-- One answer of the transport (R10, R20): the bits clocked in, of which a call takes its low ones, and the parity
verdict, which only `seq_in_par` looks at. Any value may come. -/
structure TapReply where
  bits : BitVec 35
  parityOk : Bool
deriving DecidableEq, Repr

/-- One act of the host on the command port (R27, R28). -/
inductive HostAction
  | argAp (v : Byte)
  | argAddr (v : Word)
  | argValue (v : Word)
  | argLen (v : Word)
  | hbuf (i : Word) (b : Byte)
  | command (op : Byte)
deriving DecidableEq, Repr

/-! ### The position inside a command (log 6) -/

/-- What the engine does next. -/
inductive Stage
  /-- no command runs -/
  | idle
  /-- a `low_access` begins: the short-circuit test (R131) -/
  | start
  /-- JTAG: the instruction register is loaded (R133) -/
  | ir
  /-- JTAG posted: the instruction register is loaded again for a retry (log 21) -/
  | reloadIr
  /-- `t0` is read (R135) -/
  | clock
  /-- the request is sent (R132, R133) -/
  | request
  /-- JTAG posted: what the request scan shifts out answers the scan before, and is dropped (U11, log 21) -/
  | drain
  /-- JTAG posted: DPACC is loaded for the collecting scan (log 21) -/
  | collectIr
  /-- JTAG posted: the scan that collects the response (U11, log 21) -/
  | collect
  /-- an acknowledge is awaited (R134 to R138) -/
  | ack
  /-- after WAIT, a clock reading is awaited (R135) -/
  | retryClock
  /-- SWD: the data phase (R132) -/
  | data
  /-- SWD: the flush (R95) -/
  | flush
  /-- DP_SCAN: the switch sequence (R105, R240) -/
  | lineReset
deriving DecidableEq, Repr

/-- The register transaction in flight (R130): direction, 9-bit register address (R23), write data, and the value
received so far. -/
structure Access where
  rnw : Bool
  addr : BitVec 9
  wval : Word
  value : Word
deriving DecidableEq, Repr

/-- No transaction. -/
def Access.none : Access := ⟨false, 0, 0, 0⟩

/-- Who asked for an `ap_access` (R181): AP_READ, AP_WRITE, or AP_SCAN at candidate `s` with `n` APs found (R248). -/
inductive ApUse
  | read
  | write
  | scan (s n : Nat)
deriving DecidableEq, Repr

/-- The accesses of an `ap_access` (R180, R181): the SELECT write, the first access of a pipelined read, the last one. -/
inductive ApPos
  | select
  | first
  | last
deriving DecidableEq, Repr

/-- The accesses of a memory transfer (R204 to R212). `k` counts the units of the chunk still to be moved. -/
inductive MemPos
  | select
  | csw
  | tar (k : Nat)
  | prime (k : Nat)
  | unit (k : Nat)
  | abort
deriving DecidableEq, Repr

/-- Which command runs and which of its accesses is in flight: what `low_access` returns to. -/
inductive Cont
  /-- no command runs -/
  | none
  /-- DP_SCAN (R240) -/
  | scan
  /-- LOW_ACCESS_RD, LOW_ACCESS_WR (R143) -/
  | lowAccess
  /-- DP_READ, the discarded first access of a pipelined read (R160) -/
  | dpReadFirst
  /-- DP_READ, the access whose value is returned (R160) -/
  | dpRead
  /-- DP_WRITE (R162) -/
  | dpWrite
  /-- DP_ABORT (R164) -/
  | dpAbort
  /-- DP_ERROR, the read of CTRL/STAT (R163) -/
  | errorRead
  /-- DP_ERROR, the write of ABORT, with the mask to return (R163) -/
  | errorAbort (err : Word)
  /-- AP_READ, AP_WRITE, AP_SCAN (R181, R182, R248) -/
  | ap (use : ApUse) (pos : ApPos)
  /-- MEM_READ (`rd`) or MEM_WRITE (R200) -/
  | mem (rd : Bool) (pos : MemPos)
deriving DecidableEq, Repr

/-- A memory command runs (R213, R268). -/
def Cont.isMem : Cont → Bool
  | .mem _ _ => true
  | .none | .scan | .lowAccess | .dpReadFirst | .dpRead | .dpWrite | .dpAbort => false
  | .errorRead | .errorAbort _ | .ap _ _ => false

/-! ### The state -/

/-- The machine's state: the spec's own fields, then the MODEL's. -/
@[ext]
structure State where
  /-- The DebugPort record (R21). -/
  dp : DebugPort
  /-- The AccessPort records `ap[0]` to `ap[255]`, by `ap_select` (R22, log 8). -/
  aps : Vector AccessPort Config.apselCount
  /-- The Memory Access Window (R24). -/
  win : Window
  /-- The ACK state machine's state register (R25). -/
  fsm : Fsm
  /-- The retry timer snapshot (R26). -/
  t0 : Word
  /-- The host command port registers (R27). -/
  port : HostPort
  /-- The host buffer (R28): the bytes that differ from `Memory.unwritten`, by index, ascending. -/
  hbuf : List Host.Cell
  /-- The configuration record (R7, R51); nothing writes it (log 7). -/
  cfg : Config
  /-- MODEL: where inside the running command the engine stands (log 6). -/
  stage : Stage
  /-- MODEL: the register transaction in flight (log 6). -/
  acc : Access
  /-- MODEL: what the running command does with the transaction's result (log 6). -/
  cont : Cont
  /-- MODEL: the tap and clock calls made, latest first (R10, R73, log 4). -/
  trace : List TapCall
  /-- MODEL: the values `fsm` has taken, latest first (R141, log 4). -/
  fsmLog : List Fsm
  /-- MODEL: the transport's answers not yet taken, next first (R10, R20, log 2). -/
  tapIn : List TapReply
  /-- MODEL: the clock's answers not yet taken, next first (R11, R20, log 3). -/
  clkIn : List Word
  /-- MODEL: what the host does next, next first (R27, log 1). -/
  hostIn : List HostAction
  /-- MODEL: how many free values have been taken (log 13). -/
  nonce : Nat
deriving DecidableEq, Repr

/-- Why the machine stops. -/
inductive Fault
  /-- Raised by `step` and by the run of a command if a word the engine composed itself, or an acknowledge, is no
  instruction of its format. No state reaches it (R92, R93, R98). Safe: the model stops. -/
  | linkWordUndecodable
deriving DecidableEq, Repr

/-- Why an instruction is not run. -/
inductive Refusal
  /-- Raised by `exec` for an instruction without a meaning. Safe. -/
  | notModelled (mnemonic : String)
  /-- Raised by a host command while another one runs: "The spec gives it no meaning" (R296). `step` never asks for it.
  Safe: the model stops. -/
  | commandWhileBusy
  /-- Raised by a link operation given when the engine is not at that operation's phase (R141 "and no other"). `step`
  never asks for it. Safe: the model stops. -/
  | outOfPhase
deriving DecidableEq, Repr

/-- RSP_FAULT reads `dp.fault` live (R27). -/
def State.rspFault (s : State) : Bool := s.dp.fault

/-- Power-on reset (R50, R290). The values R50 leaves unspecified are those of logs 8 to 12. -/
def State.reset : State where
  dp := ⟨false, 0, false, Option.none, .swd⟩
  aps := Vector.replicate Config.apselCount ⟨false, 0, Option.none, Option.none⟩
  win := ⟨0, 0, 0, 0, 0⟩
  fsm := .idle
  t0 := 0
  port := ⟨0, 0, 0, 0, 0, 0, 0, 0⟩
  hbuf := []
  cfg := Config.standard
  stage := .idle
  acc := Access.none
  cont := .none
  trace := []
  fsmLog := []
  tapIn := []
  clkIn := []
  hostIn := []
  nonce := 0

/-! ### Field updates -/

/-- Replace `dp`. -/
def State.setDp (s : State) (v : DebugPort) : State := { s with dp := v }

/-- Replace `aps`. -/
def State.setAps (s : State) (v : Vector AccessPort Config.apselCount) : State := { s with aps := v }

/-- Replace `win`. -/
def State.setWin (s : State) (v : Window) : State := { s with win := v }

/-- Replace `fsm`. -/
def State.setFsm (s : State) (v : Fsm) : State := { s with fsm := v }

/-- Replace `t0`. -/
def State.setT0 (s : State) (v : Word) : State := { s with t0 := v }

/-- Replace `port`. -/
def State.setPort (s : State) (v : HostPort) : State := { s with port := v }

/-- Replace `hbuf`. -/
def State.setHbuf (s : State) (v : List Host.Cell) : State := { s with hbuf := v }

/-- Replace `stage`. -/
def State.setStage (s : State) (v : Stage) : State := { s with stage := v }

/-- Replace `acc`. -/
def State.setAcc (s : State) (v : Access) : State := { s with acc := v }

/-- Replace `cont`. -/
def State.setCont (s : State) (v : Cont) : State := { s with cont := v }

/-- Replace `trace`. -/
def State.setTrace (s : State) (v : List TapCall) : State := { s with trace := v }

/-- Replace `fsmLog`. -/
def State.setFsmLog (s : State) (v : List Fsm) : State := { s with fsmLog := v }

/-- Replace `tapIn`. -/
def State.setTapIn (s : State) (v : List TapReply) : State := { s with tapIn := v }

/-- Replace `clkIn`. -/
def State.setClkIn (s : State) (v : List Word) : State := { s with clkIn := v }

/-- Replace `hostIn`. -/
def State.setHostIn (s : State) (v : List HostAction) : State := { s with hostIn := v }

/-- Replace `nonce`. -/
def State.setNonce (s : State) (v : Nat) : State := { s with nonce := v }

end Sys2Proof.Machine
end

