-- ==== Sys2Proof/Machine/Ops.lean ====
section
/-! DEFINITION. The named operations over the host buffer, the AP table, the caches, the ports and the command's end;
taking an exception (a raise, 60_exceptions.md R268). -/

namespace Sys2Proof.Machine

/-! ### The host buffer (R28) -/

/-- What a byte of HBUF that nothing has written reads as: the spec leaves it unspecified (R50), the model takes 0
(log 12). -/
def Memory.unwritten : Byte := 0

/-- Read one byte. -/
def Memory.read : List Host.Cell → Nat → Byte
  | [], _ => Memory.unwritten
  | (j, b) :: m, i => if j = i then b else Memory.read m i

/-- Insert an entry at its place in the rising order of indexes. -/
def Memory.insert (i : Nat) (b : Byte) : List Host.Cell → List Host.Cell
  | [] => [(i, b)]
  | (j, c) :: m => if i < j then (i, b) :: (j, c) :: m else (j, c) :: Memory.insert i b m

/-- Write one byte; writing the value of an unwritten byte removes the entry. -/
def Memory.write (m : List Host.Cell) (i : Nat) (b : Byte) : List Host.Cell :=
  let rest := m.filter (fun c => c.1 != i)
  if b = Memory.unwritten then rest else Memory.insert i b rest

/-- Write bytes at successive indexes. -/
def Memory.writeBytes (m : List Host.Cell) (i : Nat) : List Byte → List Host.Cell
  | [] => m
  | b :: bs => Memory.writeBytes (Memory.write m i b) (i + 1) bs

/-- The canonical form: indexes strictly rising, no entry equal to what an unwritten byte reads as. -/
def Memory.wf : List Host.Cell → Bool
  | [] => true
  | [c] => c.2 != Memory.unwritten
  | c :: d :: m => c.2 != Memory.unwritten && decide (c.1 < d.1) && Memory.wf (d :: m)

/-- Byte `i` of HBUF. -/
def State.hbufByte (s : State) (i : Nat) : Byte := Memory.read s.hbuf i

/-! ### The AP table (R22, log 8) -/

/-- The 256 records of which record `i` is `f i`. -/
def ApTable.tabulate (f : Byte → AccessPort) : Vector AccessPort Config.apselCount :=
  ⟨⟨(List.range Config.apselCount).map (fun i => f (BitVec.ofNat 8 i))⟩, by simp⟩

/-- A select names one of the 256 records (R22). -/
theorem ApTable.bound (i : Byte) : i.toNat < Config.apselCount := i.isLt

/-- Record `i`. -/
def ApTable.get (t : Vector AccessPort Config.apselCount) (i : Byte) : AccessPort := t[i.toNat]'(ApTable.bound i)

/-- Change record `i`. -/
def ApTable.change (i : Byte) (f : AccessPort → AccessPort) (t : Vector AccessPort Config.apselCount) :
    Vector AccessPort Config.apselCount :=
  t.set i.toNat (f (ApTable.get t i)) (ApTable.bound i)

/-- Change every record. -/
def ApTable.map (f : AccessPort → AccessPort) (t : Vector AccessPort Config.apselCount) :
    Vector AccessPort Config.apselCount :=
  ⟨⟨t.toList.map f⟩, by simp⟩

/-- `ap[i]`. -/
def State.ap (s : State) (i : Byte) : AccessPort := ApTable.get s.aps i

/-- `ap[i].present`. -/
def State.apPresent (s : State) (i : Byte) : Bool := (s.ap i).present

/-- `ap[i].csw_cache`. -/
def State.cswCache (s : State) (i : Byte) : Option Word := (s.ap i).cswCache

/-- `ap[i].tar_cache`. -/
def State.tarCache (s : State) (i : Byte) : Option Word := (s.ap i).tarCache

/-- `ap[i].csw_cache <- c`. -/
def setCswCache (i : Byte) (c : Option Word) (s : State) : State :=
  s.setAps (ApTable.change i (fun p => { p with cswCache := c }) s.aps)

/-- `ap[i].tar_cache <- c`. -/
def setTarCache (i : Byte) (c : Option Word) (s : State) : State :=
  s.setAps (ApTable.change i (fun p => { p with tarCache := c }) s.aps)

/-! ### The caches (R12, R78) -/

/-- A record with both caches `None`. -/
def AccessPort.dropCaches (p : AccessPort) : AccessPort := { p with cswCache := none, tarCache := none }

/-- A record whose object is gone: not present, no cache; nothing writes its IDR (R248, R252). -/
def AccessPort.discard (p : AccessPort) : AccessPort :=
  { p with present := false, cswCache := none, tarCache := none }

/-- `invalidate_ap_caches()` (R12). -/
def invalidateApCaches (s : State) : State := s.setAps (ApTable.map AccessPort.dropCaches s.aps)

/-- Every AccessPort object is gone (R248, R252). -/
def discardAps (s : State) : State := s.setAps (ApTable.map AccessPort.discard s.aps)

/-- `dp.sel_cache <- c`. -/
def setSelCache (c : Option (Byte × BitVec 4)) (s : State) : State :=
  s.setDp { s.dp with selCache := c }

/-- `invalidate_all()` (R12). -/
def invalidateAll (s : State) : State :=
  setSelCache none (invalidateApCaches s)

/-! ### The ports -/

/-- Record a call on the tap port or the clock port (R10, R73, log 4). -/
def logCall (c : TapCall) (s : State) : State := s.setTrace (c :: s.trace)

/-- Record the same call `n` times. -/
def logCalls (n : Nat) (c : TapCall) (s : State) : State := s.setTrace (List.replicate n c ++ s.trace)

/-- `fsm <- f` (R12), recorded (log 4). -/
def moveFsm (f : Fsm) (s : State) : State := (s.setFsm f).setFsmLog (f :: s.fsmLog)

/-- The number of a status (R111). -/
def Status.code : Status → BitVec 3
  | .ok => 0
  | .timeout => 1
  | .protocolError => 2
  | .memoryFault => 3
  | .noDp => 4
  | .badAp => 5
  | .badCmd => 6

/-- `RSP_STATUS <- r`. -/
def setStatus (r : Status) (s : State) : State := s.setPort { s.port with rspStatus := r.code }

/-- `RSP_VALUE <- v`. -/
def setRspValue (v : Word) (s : State) : State := s.setPort { s.port with rspValue := v }

/-- `RSP_COUNT <- n`. -/
def setRspCount (n : Word) (s : State) : State := s.setPort { s.port with rspCount := n }

/-- One act of the host on the operand registers or HBUF (R27, R28); a command only puts its opcode into CMD here. -/
def hostWrite (a : HostAction) (s : State) : State :=
  match a with
  | .argAp v => s.setPort { s.port with argAp := v }
  | .argAddr v => s.setPort { s.port with argAddr := v }
  | .argValue v => s.setPort { s.port with argValue := v }
  | .argLen v => s.setPort { s.port with argLen := v }
  | .hbuf i b => s.setHbuf (Memory.write s.hbuf i.toNat b)
  | .command op => s.setPort { s.port with cmd := op }

/-! ### Free values (log 13) -/

/-- `t0` holds no defined value between accesses (R26). -/
def forgetT0 (s : State) : State :=
  (s.setT0 (Config.freeT0 s.nonce)).setNonce (s.nonce + 1)

/-- `win` holds no defined value between commands (R24). -/
def forgetWin (s : State) : State :=
  (s.setWin ⟨Config.freeWinSz s.nonce, Config.freeWinInc s.nonce, Config.freeWinA s.nonce,
    Config.freeWinDone s.nonce, Config.freeWinUnits s.nonce⟩).setNonce (s.nonce + 1)

/-- `dp.idcode`, `dp.variant` and every `ap[i].idr` are unspecified once the DebugPort is gone (R50). -/
def forgetDp (s : State) : State :=
  ((s.setDp { s.dp with idcode := Config.freeIdcode s.nonce, variant := Config.freeVariant s.nonce }).setAps
    (ApTable.tabulate (fun i => { s.ap i with idr := Config.freeIdr s.nonce i }))).setNonce (s.nonce + 1)

/-! ### The end of a command -/

/-- No command is in flight. -/
def clearPosition (s : State) : State :=
  ((s.setStage .idle).setAcc Access.none).setCont .none

/-- The command completes with a status (R107); after a memory command `win` is undefined (R24). -/
def finish (r : Status) (s : State) : State :=
  clearPosition (setStatus r (if s.cont.isMem then forgetWin s else s))

/-- The unit size in bytes, `u = 2^win.sz` (R202). -/
def unitBytes (sz : BitVec 2) : Word := 1#32 <<< sz.toNat

/-- `win.done * u`: the bytes confirmed (R212, R214, R268). -/
def confirmedBytes (s : State) : Word := s.win.done * unitBytes s.win.sz

/-! ### Taking an exception: what a raise does (R268) -/

/-- The state of the ACK machine a raise passes through (R141, R268). -/
def Condition.fsm : Condition → Fsm
  | .timeout => .timeoutError
  | .badAck => .protocolError
  | .parity => .protocolError

/-- The status a raise reports; the cause of a ProtocolError is not reported (R260). -/
def Condition.status : Condition → Status
  | .timeout => .timeout
  | .badAck => .protocolError
  | .parity => .protocolError

/-- `RSP_COUNT <- win.done * u`, MEM_READ and MEM_WRITE only (R268). -/
def countOnRaise (s : State) : State :=
  if s.cont.isMem then setRspCount (confirmedBytes s) s else s

/-- `raise` (R268): the machine passes through the error state to Idle, every cache is dropped, a memory command
reports its count, and the command is complete. There is no return: the next command is accepted (R269). -/
def raise (c : Condition) (s : State) : State :=
  finish c.status (countOnRaise (invalidateAll (forgetT0 (moveFsm .idle (moveFsm c.fsm s)))))

end Sys2Proof.Machine
end

