-- ==== Sys2Proof/Machine/Flags.lean ====
section
/-! DEFINITION. The one status flag, `dp.fault` (10_state.md R30), and the sticky bits of CTRL/STAT (R33, R102). -/

namespace Sys2Proof.Machine

/-- `dp.fault <- 1`: an ACK of FAULT (R137). -/
def latchFault (s : State) : State := s.setDp { s.dp with fault := true }

/-- `dp.fault <- 0`: the last step of DP_ERROR (R163). -/
def clearFault (s : State) : State := s.setDp { s.dp with fault := false }

/-- The four sticky bits of a CTRL/STAT value, in place (R33, R163). -/
def stickyBits (cs : Word) : Word := cs &&& Config.stickyMask

/-- The ABORT bits that clear the sticky bits of `err` (R102, R163). -/
def clearBits (err : Word) : Word :=
  (if err.getLsbD Config.stickyOrunBit then Config.orunErrClr else 0)
    ||| (if err.getLsbD Config.stickyCmpBit then Config.stkCmpClr else 0)
    ||| (if err.getLsbD Config.stickyErrBit then Config.stkErrClr else 0)
    ||| (if err.getLsbD Config.wDataErrBit then Config.wdErrClr else 0)

end Sys2Proof.Machine
end

