-- ==== Sys2Proof/WellFormed.lean ====
section
/-! DEFINITION. Which instructions are well formed.

Every field of every format is free but one: the data field of a JTAG read scan is zero (30_encoding.md R98 "write data;
zero on a read", 40_low_access.md R144). -/

namespace Sys2Proof

/-- The data field of a JTAG read scan is zero (R98, R144); nothing else is constrained. -/
def Instr.wellFormed : Instr → Bool
  | .jtagDpRd0 d | .jtagDpRd4 d | .jtagDpRd8 d | .jtagDpRdC d => d == 0
  | .jtagApRd0 d | .jtagApRd4 d | .jtagApRd8 d | .jtagApRdC d => d == 0
  | .jtagDpWr0 _ | .jtagDpWr4 _ | .jtagDpWr8 _ | .jtagDpWrC _ => true
  | .jtagApWr0 _ | .jtagApWr4 _ | .jtagApWr8 _ | .jtagApWrC _ => true
  | .swdDpWr0 | .swdDpRd0 | .swdDpWr4 | .swdDpRd4 | .swdDpWr8 | .swdDpRd8 | .swdDpWrC | .swdDpRdC => true
  | .swdApWr0 | .swdApRd0 | .swdApWr4 | .swdApRd4 | .swdApWr8 | .swdApRd8 | .swdApWrC | .swdApRdC => true
  | .jtagIrDpacc | .jtagIrApacc => true
  | .ackOk | .ackWait | .ackFault => true
  | .ackInvalid0 | .ackInvalid3 | .ackInvalid5 | .ackInvalid6 | .ackInvalid7 => true
  | .swdData _ _ | .swdFlush | .swdJtag2Swd => true
  | .dpScan | .dpAttachJtag | .detach | .lowAccessRd | .lowAccessWr | .dpRead | .dpWrite | .dpError | .dpAbort => true
  | .apScan | .apRead | .apWrite | .memRead | .memWrite | .cacheInvalidate => true

end Sys2Proof
end

