-- ==== Sys2Proof/Decode.lean ====
section
/-! DEFINITION. The decoder and the encoder (30_encoding.md).

A link word or an opcode is read in the format of the phase the engine is in (log 15). The decoder reads the bytes of
one word, least significant byte first; the encoder writes them. -/

namespace Sys2Proof

/-- The formats of 30_encoding.md. `jtagDr ap` is a DR scan under APACC (`ap`) or DPACC. -/
inductive Format
  | swdReq
  | ack
  | swdData
  | swdFlush
  | jtagIr
  | jtagDr (ap : Bool)
  | lineReset
  | cmd
deriving DecidableEq, Repr

/-- The width of a format in bits (R90, R93, R94, R95, R97, R98, R105, R106, R109). -/
def Format.bits : Format → Nat
  | .swdReq => 8
  | .ack => 3
  | .swdData => 33
  | .swdFlush => Config.flushBits
  | .jtagIr => Config.jtagIrBits
  | .jtagDr _ => Config.jtagDrBits
  | .lineReset => 16
  | .cmd => 8

/-- The width of a format in whole bytes. -/
def Format.bytes (f : Format) : Nat := (f.bits + 7) / 8

/-- Why a word is no instruction. -/
inductive DecodeError
  /-- The list of bytes is not as long as the format's word. -/
  | wrongLength
  /-- A bit above the format's width is set. -/
  | bitsAboveWidth
  /-- An SWD request byte other than the sixteen of R92 (R108 c). -/
  | unknownRequest
  /-- A JTAG instruction other than DPACC and APACC (R97). -/
  | unknownIr
  /-- A flush other than `FLUSH_VALUE` (R95). -/
  | unknownFlush
  /-- A switch sequence other than `SWITCH_SEQ` (R105). -/
  | unknownSwitch
  /-- A host opcode not in R107 (R108 a). -/
  | undefinedOpcode
  /-- A JTAG read scan whose data field is not zero (R98, R144). -/
  | readDataNotZero
deriving DecidableEq, Repr

/-! ### Composed words -/

/-- The exclusive-or of the bits of a data word (R94: the data parity is even). -/
def evenParity (v : Word) : Bool :=
  (List.range 32).foldl (fun p i => p ^^ v.getLsbD i) false

/-- Request parity: `APnDP ^ RnW ^ A2 ^ A3` (R91). -/
def requestParity (ap rnw : Bool) (a : BitVec 2) : Bool :=
  ap ^^ rnw ^^ a.getLsbD 0 ^^ a.getLsbD 1

/-- The SWD request byte (R90); `a` is `addr[3:2]`. -/
def requestByte (ap rnw : Bool) (a : BitVec 2) : Byte :=
  0x81#8 ||| (BitVec.ofBool ap).setWidth 8 <<< 1 ||| (BitVec.ofBool rnw).setWidth 8 <<< 2
    ||| (BitVec.ofBool (a.getLsbD 0)).setWidth 8 <<< 3 ||| (BitVec.ofBool (a.getLsbD 1)).setWidth 8 <<< 4
    ||| (BitVec.ofBool (requestParity ap rnw a)).setWidth 8 <<< 5

/-- The 33-bit SWD data phase: the data word, then its parity bit (R94). -/
def dataPhaseWord (data : Word) (parity : Bool) : BitVec 33 :=
  BitVec.ofBool parity ++ data

/-- The 35-bit JTAG DR word: RnW in bit 0, `addr[3:2]` in bits [2:1], data in bits [34:3] (R98). -/
def jtagDrWord (rnw : Bool) (a : BitVec 2) (data : Word) : BitVec 35 :=
  data ++ a ++ BitVec.ofBool rnw

/-- The instruction an SWD request stands for (R92). -/
def swdRequestInstr (ap rnw : Bool) (a : BitVec 2) : Instr :=
  match ap, rnw, a.toFin with
  | false, false, 0 => .swdDpWr0
  | false, true, 0 => .swdDpRd0
  | false, false, 1 => .swdDpWr4
  | false, true, 1 => .swdDpRd4
  | false, false, 2 => .swdDpWr8
  | false, true, 2 => .swdDpRd8
  | false, false, 3 => .swdDpWrC
  | false, true, 3 => .swdDpRdC
  | true, false, 0 => .swdApWr0
  | true, true, 0 => .swdApRd0
  | true, false, 1 => .swdApWr4
  | true, true, 1 => .swdApRd4
  | true, false, 2 => .swdApWr8
  | true, true, 2 => .swdApRd8
  | true, false, 3 => .swdApWrC
  | true, true, 3 => .swdApRdC

/-- The instruction a JTAG DR scan stands for (R98); `ap` is the register the IR selects. -/
def jtagScanInstr (ap rnw : Bool) (a : BitVec 2) (data : Word) : Instr :=
  match ap, rnw, a.toFin with
  | false, false, 0 => .jtagDpWr0 data
  | false, true, 0 => .jtagDpRd0 data
  | false, false, 1 => .jtagDpWr4 data
  | false, true, 1 => .jtagDpRd4 data
  | false, false, 2 => .jtagDpWr8 data
  | false, true, 2 => .jtagDpRd8 data
  | false, false, 3 => .jtagDpWrC data
  | false, true, 3 => .jtagDpRdC data
  | true, false, 0 => .jtagApWr0 data
  | true, true, 0 => .jtagApRd0 data
  | true, false, 1 => .jtagApWr4 data
  | true, true, 1 => .jtagApRd4 data
  | true, false, 2 => .jtagApWr8 data
  | true, true, 2 => .jtagApRd8 data
  | true, false, 3 => .jtagApWrC data
  | true, true, 3 => .jtagApRdC data

/-! ### The table of the words without fields -/

/-- One row: a format, the word, the instruction. -/
structure Row where
  fmt : Format
  word : Nat
  instr : Instr
deriving DecidableEq, Repr

/-- The sixteen request bytes (R92). -/
def requestRows : List Row :=
  [⟨.swdReq, 0x81, .swdDpWr0⟩,
   ⟨.swdReq, Config.idcodeReq.toNat, .swdDpRd0⟩,
   ⟨.swdReq, 0xA9, .swdDpWr4⟩,
   ⟨.swdReq, 0x8D, .swdDpRd4⟩,
   ⟨.swdReq, 0xB1, .swdDpWr8⟩,
   ⟨.swdReq, 0x95, .swdDpRd8⟩,
   ⟨.swdReq, 0x99, .swdDpWrC⟩,
   ⟨.swdReq, 0xBD, .swdDpRdC⟩,
   ⟨.swdReq, 0xA3, .swdApWr0⟩,
   ⟨.swdReq, 0x87, .swdApRd0⟩,
   ⟨.swdReq, 0x8B, .swdApWr4⟩,
   ⟨.swdReq, 0xAF, .swdApRd4⟩,
   ⟨.swdReq, 0x93, .swdApWr8⟩,
   ⟨.swdReq, 0xB7, .swdApRd8⟩,
   ⟨.swdReq, 0xBB, .swdApWrC⟩,
   ⟨.swdReq, 0x9F, .swdApRdC⟩]

/-- The eight ACK patterns (R93). -/
def ackRows : List Row :=
  [⟨.ack, Config.ackOk.toNat, .ackOk⟩,
   ⟨.ack, Config.ackWait.toNat, .ackWait⟩,
   ⟨.ack, Config.ackFault.toNat, .ackFault⟩,
   ⟨.ack, 0b000, .ackInvalid0⟩,
   ⟨.ack, 0b011, .ackInvalid3⟩,
   ⟨.ack, 0b101, .ackInvalid5⟩,
   ⟨.ack, 0b110, .ackInvalid6⟩,
   ⟨.ack, 0b111, .ackInvalid7⟩]

/-- The flush, the switch sequence and the two JTAG instruction codes (R95, R97, R105). -/
def linkRows : List Row :=
  [⟨.swdFlush, Config.flushValue.toNat, .swdFlush⟩,
   ⟨.lineReset, Config.switchSeq.toNat, .swdJtag2Swd⟩,
   ⟨.jtagIr, Config.irDpacc.toNat, .jtagIrDpacc⟩,
   ⟨.jtagIr, Config.irApacc.toNat, .jtagIrApacc⟩]

/-- The host opcodes (R107). -/
def commandRows : List Row :=
  [⟨.cmd, Config.opDpScan.toNat, .dpScan⟩,
   ⟨.cmd, Config.opDpAttachJtag.toNat, .dpAttachJtag⟩,
   ⟨.cmd, Config.opDetach.toNat, .detach⟩,
   ⟨.cmd, Config.opLowAccessRd.toNat, .lowAccessRd⟩,
   ⟨.cmd, Config.opLowAccessWr.toNat, .lowAccessWr⟩,
   ⟨.cmd, Config.opDpRead.toNat, .dpRead⟩,
   ⟨.cmd, Config.opDpWrite.toNat, .dpWrite⟩,
   ⟨.cmd, Config.opDpError.toNat, .dpError⟩,
   ⟨.cmd, Config.opDpAbort.toNat, .dpAbort⟩,
   ⟨.cmd, Config.opApScan.toNat, .apScan⟩,
   ⟨.cmd, Config.opApRead.toNat, .apRead⟩,
   ⟨.cmd, Config.opApWrite.toNat, .apWrite⟩,
   ⟨.cmd, Config.opMemRead.toNat, .memRead⟩,
   ⟨.cmd, Config.opMemWrite.toNat, .memWrite⟩,
   ⟨.cmd, Config.opCacheInvalidate.toNat, .cacheInvalidate⟩]

/-- All rows without fields. -/
def fixedRows : List Row :=
  requestRows ++ ackRows ++ linkRows ++ commandRows

/-- The name of a word that is in no row of its format. -/
def Format.unknown : Format → DecodeError
  | .swdReq => .unknownRequest
  | .ack => .bitsAboveWidth
  | .swdData => .bitsAboveWidth
  | .swdFlush => .unknownFlush
  | .jtagIr => .unknownIr
  | .jtagDr _ => .bitsAboveWidth
  | .lineReset => .unknownSwitch
  | .cmd => .undefinedOpcode

/-- Look a word without fields up in the table. -/
def decodeFixed (f : Format) (w : BitVec 40) : Except DecodeError Instr :=
  match fixedRows.find? (fun r => decide (r.fmt = f) && r.word == w.toNat) with
  | some r => .ok r.instr
  | none => .error f.unknown

/-- A data phase: data in bits [31:0], the parity bit in bit 32 (R94). -/
def decodeData (w : BitVec 40) : Except DecodeError Instr :=
  if w.extractLsb' 33 7 = 0 then .ok (.swdData (w.extractLsb' 0 32) (w.getLsbD 32))
  else .error .bitsAboveWidth

/-- A JTAG DR scan: RnW in bit 0, the address in bits [2:1], data in bits [34:3]; a read carries zero (R98, R144). -/
def decodeScan (ap : Bool) (w : BitVec 40) : Except DecodeError Instr :=
  if w.extractLsb' 35 5 = 0 then
    if w.getLsbD 0 ∧ w.extractLsb' 3 32 ≠ 0 then .error .readDataNotZero
    else .ok (jtagScanInstr ap (w.getLsbD 0) (w.extractLsb' 1 2) (w.extractLsb' 3 32))
  else .error .bitsAboveWidth

/-- The decoder on one word: total, and a word that is no instruction of its format is rejected by name. -/
def decode (f : Format) (w : BitVec 40) : Except DecodeError Instr :=
  match f with
  | .swdData => decodeData w
  | .jtagDr ap => decodeScan ap w
  | .swdReq => decodeFixed .swdReq w
  | .ack => decodeFixed .ack w
  | .swdFlush => decodeFixed .swdFlush w
  | .jtagIr => decodeFixed .jtagIr w
  | .lineReset => decodeFixed .lineReset w
  | .cmd => decodeFixed .cmd w

/-- The number whose bytes, least significant first, are `bs`. -/
def natOfBytes : List Byte → Nat
  | [] => 0
  | b :: bs => b.toNat + 256 * natOfBytes bs

/-- The decoder on bytes, least significant first. -/
def decodeBytes (f : Format) (bs : List Byte) : Except DecodeError Instr :=
  if bs.length = f.bytes then decode f (BitVec.ofNat 40 (natOfBytes bs)) else .error .wrongLength

/-! ### The encoder -/

/-- A word with the format it is read in. -/
structure Encoded where
  fmt : Format
  word : BitVec 40
deriving DecidableEq, Repr

/-- The request byte of R90 as a word. -/
def encodeRequest (ap rnw : Bool) (a : BitVec 2) : Encoded :=
  ⟨.swdReq, (requestByte ap rnw a).setWidth 40⟩

/-- The DR word of R98 as a word. -/
def encodeScan (ap rnw : Bool) (a : BitVec 2) (data : Word) : Encoded :=
  ⟨.jtagDr ap, (jtagDrWord rnw a data).setWidth 40⟩

/-- The encoder: the word of an instruction, from the formulas of R90, R94, R98 and the codes of R93, R95, R97, R105,
R107. -/
def encode : Instr → Encoded
  | .swdDpWr0 => encodeRequest false false 0
  | .swdDpRd0 => encodeRequest false true 0
  | .swdDpWr4 => encodeRequest false false 1
  | .swdDpRd4 => encodeRequest false true 1
  | .swdDpWr8 => encodeRequest false false 2
  | .swdDpRd8 => encodeRequest false true 2
  | .swdDpWrC => encodeRequest false false 3
  | .swdDpRdC => encodeRequest false true 3
  | .swdApWr0 => encodeRequest true false 0
  | .swdApRd0 => encodeRequest true true 0
  | .swdApWr4 => encodeRequest true false 1
  | .swdApRd4 => encodeRequest true true 1
  | .swdApWr8 => encodeRequest true false 2
  | .swdApRd8 => encodeRequest true true 2
  | .swdApWrC => encodeRequest true false 3
  | .swdApRdC => encodeRequest true true 3
  | .jtagDpWr0 data => encodeScan false false 0 data
  | .jtagDpRd0 data => encodeScan false true 0 data
  | .jtagDpWr4 data => encodeScan false false 1 data
  | .jtagDpRd4 data => encodeScan false true 1 data
  | .jtagDpWr8 data => encodeScan false false 2 data
  | .jtagDpRd8 data => encodeScan false true 2 data
  | .jtagDpWrC data => encodeScan false false 3 data
  | .jtagDpRdC data => encodeScan false true 3 data
  | .jtagApWr0 data => encodeScan true false 0 data
  | .jtagApRd0 data => encodeScan true true 0 data
  | .jtagApWr4 data => encodeScan true false 1 data
  | .jtagApRd4 data => encodeScan true true 1 data
  | .jtagApWr8 data => encodeScan true false 2 data
  | .jtagApRd8 data => encodeScan true true 2 data
  | .jtagApWrC data => encodeScan true false 3 data
  | .jtagApRdC data => encodeScan true true 3 data
  | .jtagIrDpacc => ⟨.jtagIr, Config.irDpacc.setWidth 40⟩
  | .jtagIrApacc => ⟨.jtagIr, Config.irApacc.setWidth 40⟩
  | .ackOk => ⟨.ack, Config.ackOk.setWidth 40⟩
  | .ackWait => ⟨.ack, Config.ackWait.setWidth 40⟩
  | .ackFault => ⟨.ack, Config.ackFault.setWidth 40⟩
  | .ackInvalid0 => ⟨.ack, 0b000⟩
  | .ackInvalid3 => ⟨.ack, 0b011⟩
  | .ackInvalid5 => ⟨.ack, 0b101⟩
  | .ackInvalid6 => ⟨.ack, 0b110⟩
  | .ackInvalid7 => ⟨.ack, 0b111⟩
  | .swdData data parity => ⟨.swdData, (dataPhaseWord data parity).setWidth 40⟩
  | .swdFlush => ⟨.swdFlush, Config.flushValue.setWidth 40⟩
  | .swdJtag2Swd => ⟨.lineReset, Config.switchSeq.setWidth 40⟩
  | .dpScan => ⟨.cmd, Config.opDpScan.setWidth 40⟩
  | .dpAttachJtag => ⟨.cmd, Config.opDpAttachJtag.setWidth 40⟩
  | .detach => ⟨.cmd, Config.opDetach.setWidth 40⟩
  | .lowAccessRd => ⟨.cmd, Config.opLowAccessRd.setWidth 40⟩
  | .lowAccessWr => ⟨.cmd, Config.opLowAccessWr.setWidth 40⟩
  | .dpRead => ⟨.cmd, Config.opDpRead.setWidth 40⟩
  | .dpWrite => ⟨.cmd, Config.opDpWrite.setWidth 40⟩
  | .dpError => ⟨.cmd, Config.opDpError.setWidth 40⟩
  | .dpAbort => ⟨.cmd, Config.opDpAbort.setWidth 40⟩
  | .apScan => ⟨.cmd, Config.opApScan.setWidth 40⟩
  | .apRead => ⟨.cmd, Config.opApRead.setWidth 40⟩
  | .apWrite => ⟨.cmd, Config.opApWrite.setWidth 40⟩
  | .memRead => ⟨.cmd, Config.opMemRead.setWidth 40⟩
  | .memWrite => ⟨.cmd, Config.opMemWrite.setWidth 40⟩
  | .cacheInvalidate => ⟨.cmd, Config.opCacheInvalidate.setWidth 40⟩

/-- The low `n` bytes of a number, least significant first. -/
def bytesOfNat : Nat → Nat → List Byte
  | 0, _ => []
  | n + 1, w => BitVec.ofNat 8 w :: bytesOfNat n (w / 256)

/-- The bytes of an encoded word, least significant first. -/
def Encoded.bytes (e : Encoded) : List Byte :=
  bytesOfNat e.fmt.bytes e.word.toNat

/-! ### The host's question -/

/-- The formats a table word of `nbits` bits can have: those whose width is `nbits` first, then those whose width is
`nbits` once rounded up to bytes (log 15). -/
def tableFormats (nbits : Nat) : List Format :=
  if nbits ≤ 3 then [.ack]
  else if nbits ≤ 4 then [.jtagIr]
  else if nbits ≤ 8 then [.swdReq, .cmd, .swdFlush, .jtagIr, .ack]
  else if nbits ≤ 16 then [.lineReset]
  else if nbits ≤ 33 then [.swdData]
  else if nbits ≤ 40 then [.jtagDr false, .jtagDr true, .swdData]
  else []

/-- The first format of the list in which the bytes of `w` are an instruction. -/
def decodeFirst (w : Nat) : List Format → Option Instr
  | [] => none
  | f :: fs =>
    match if w < 256 ^ f.bytes then decodeBytes f (bytesOfNat f.bytes w) else .error .bitsAboveWidth with
    | .ok i => some i
    | .error _ => decodeFirst w fs

/-- The instruction the decoder reads from the table word `w` of `nbits` bits. -/
def decodeTableWord (nbits w : Nat) : Option Instr :=
  decodeFirst w (tableFormats nbits)

end Sys2Proof
end

