-- ==== Sys2Proof/Machine/Operands.lean ====
section
/-! DEFINITION. Operand forms: register addresses (R23, R103), the composed register values (R100, R101), the access
size and the lanes of DRW (R66, R203, R208, R210), the chunk (R206), and the words of the access in flight. -/

namespace Sys2Proof.Machine

/-! ### Register addresses (R23, R103) -/

/-- `addr[8]`: AP-addressed. -/
def isAp (addr : BitVec 9) : Bool := addr.getLsbD 8

/-- `addr[3:2]`: what reaches the wire. -/
def regBits (addr : BitVec 9) : BitVec 2 := addr.extractLsb' 2 2

/-- `addr[7:4]` of an AP register address: the bank. -/
def bankOf (reg : Byte) : BitVec 4 := reg.extractLsb' 4 4

/-- `addr[7:2]` of an AP register address (R183). -/
def apRegIndex (reg : Byte) : BitVec 6 := reg.extractLsb' 2 6

/-- `0x100 | addr[7:0]` (R181). -/
def apAddress (reg : Byte) : BitVec 9 := 0x100#9 ||| reg.setWidth 9

/-- `ARG_ADDR[8:0]`: the register address of the DP-level commands (R107). -/
def State.argReg (s : State) : BitVec 9 := s.port.argAddr.setWidth 9

/-- `ARG_ADDR[7:0]`: the AP register address of AP_READ and AP_WRITE (R107). -/
def State.argApReg (s : State) : Byte := s.port.argAddr.setWidth 8

/-! ### Register values the engine composes -/

/-- SELECT: APSEL in bits [31:24], the bank in bits [7:4], zero elsewhere (R100). -/
def selectValue (i : Byte) (bank : BitVec 4) : Word :=
  i.setWidth 32 <<< 24 ||| bank.setWidth 32 <<< 4

/-- `CSW_BASE(i)` (R101): 0 for an AP the configuration does not list. -/
def cswBaseOf (c : Config) (i : Byte) : Word :=
  match c.cswBase.find? (fun e => e.1 == i) with
  | some e => e.2
  | none => 0

/-- `csw_value(i, sz)`: Size in bits [2:0], AddrInc = single in bits [5:4], the rest from `CSW_BASE` (R101). -/
def cswValue (c : Config) (i : Byte) (sz : BitVec 2) : Word :=
  (cswBaseOf c i &&& ~~~Config.cswFieldMask) ||| Config.incSingle.setWidth 32 <<< Config.cswIncLsb
    ||| sz.setWidth 32 <<< Config.cswSizeLsb

/-- A cached CSW whose Size and AddrInc are what the transfer needs (R204). -/
def cswFits (sz : BitVec 2) : Option Word → Bool
  | none => false
  | some c =>
    c.extractLsb' Config.cswSizeLsb Config.cswSizeBits == sz.setWidth Config.cswSizeBits
      && c.extractLsb' Config.cswIncLsb Config.cswIncBits == Config.incSingle.setWidth Config.cswIncBits

/-! ### Memory transfers -/

/-- `access_size(addr, len)` (R203). -/
def accessSize (addr len : Word) : BitVec 2 :=
  let x := addr ||| len
  if x.extractLsb' 0 2 = 0 then Config.sizeWord
  else if x.getLsbD 0 = false then Config.sizeHalf else Config.sizeByte

/-- The low `TAR_WRAP_BITS` bits of `a`, with the default `a[9:0]`: the offset inside the auto-increment block (R62, R206,
U18, log 30). -/
def blockOffset (c : Config) (a : Word) : Nat := a.toNat % 2 ^ c.tarWrapBits

/-- `min(win.units - win.done, (0x400 - win.a[9:0]) >> win.sz)`, with the block size of the configuration for 0x400
(R206, U18, log 30). -/
def chunkUnits (c : Config) (w : Window) : Nat :=
  min (w.units - w.done).toNat ((2 ^ c.tarWrapBits - blockOffset c w.a) >>> w.sz.toNat)

/-- The shift of the lane of address `a`: by byte, by halfword, or none (R66, R13 e). -/
def laneShift (sz : BitVec 2) (a : Word) : Nat :=
  if sz = Config.sizeByte then 8 * (a.toNat % 4)
  else if sz = Config.sizeHalf then 16 * (a.toNat / 2 % 2) else 0

/-- The unit in the lane of address `a` of a DRW value; every other bit is ignored (R66, R208). -/
def takeLane (sz : BitVec 2) (a v : Word) : Word :=
  if sz = Config.sizeByte then ((v >>> laneShift sz a).setWidth 8).setWidth 32
  else if sz = Config.sizeHalf then ((v >>> laneShift sz a).setWidth 16).setWidth 32
  else v

/-- A unit in the lane of address `a`, zero in every other bit (R66, R210). -/
def placeLane (sz : BitVec 2) (a x : Word) : Word := x <<< laneShift sz a

/-- The low `n` bytes of a unit, least significant first (R67). -/
def unitToBytes (n : Nat) (x : Word) : List Byte :=
  (List.range n).map (fun i => x.extractLsb' (8 * i) 8)

/-- The unit whose bytes stand at index `i`, least significant first (R210). -/
def unitFromBytes (m : List Host.Cell) (i : Nat) : Nat → Word
  | 0 => 0
  | n + 1 => unitFromBytes m i n ||| (Memory.read m (i + n)).setWidth 32 <<< (8 * n)

/-- `u` as a number of bytes (R202). -/
def unitSize (sz : BitVec 2) : Nat := 2 ^ sz.toNat

/-- `store_unit(win.done, win.a, v)` (R208): the unit of the lane goes to `HBUF[done*u .. done*u+u-1]`. -/
def storeUnit (v : Word) (s : State) : State :=
  s.setHbuf (Memory.writeBytes s.hbuf (s.win.done.toNat * unitSize s.win.sz)
    (unitToBytes (unitSize s.win.sz) (takeLane s.win.sz s.win.a v)))

/-- `load_unit(win.done, win.a)` (R210). -/
def loadUnit (s : State) : Word :=
  placeLane s.win.sz s.win.a
    (unitFromBytes s.hbuf (s.win.done.toNat * unitSize s.win.sz) (unitSize s.win.sz))

/-- `win.a <- win.a + u; win.done <- win.done + 1` (R207, R209, R216). -/
def advanceWin (s : State) : State :=
  s.setWin { s.win with a := s.win.a + unitBytes s.win.sz, done := s.win.done + 1 }

/-! ### The words of the access in flight -/

/-- The link procedure in use: `dp.variant` (R130); the inline IDCODE read of DP_SCAN is an SWD sequence (R240). -/
def State.wire (s : State) : Variant :=
  match s.cont with
  | .scan => .swd
  | .none | .lowAccess | .dpReadFirst | .dpRead | .dpWrite | .dpAbort => s.dp.variant
  | .errorRead | .errorAbort _ | .ap _ _ | .mem _ _ => s.dp.variant

/-- The IR code of an access: APACC for an AP-addressed one, else DPACC (R97). -/
def irCode (addr : BitVec 9) : BitVec 4 := if isAp addr then Config.irApacc else Config.irDpacc

/-- The request byte of an access (R90). -/
def Access.request (x : Access) : Byte := requestByte (isAp x.addr) x.rnw (regBits x.addr)

/-- The DR word of an access: zero data on a read (R98, R133, R144). -/
def Access.scanWord (x : Access) : BitVec 35 :=
  jtagDrWord x.rnw (regBits x.addr) (if x.rnw then 0 else x.wval)

/-- The word of a posted scan that collects a response: a read of RDBUFF (U11, R98, log 21). -/
def collectWord : BitVec 35 := jtagDrWord true (regBits Config.dpRdbuff) 0

/-- The ACK row a JTAG acknowledge stands for (R99, R133, log 18): the three codes of the configuration, tested in the
order of R133; any other pattern is invalid. -/
def jtagAck (c : Config) (raw : BitVec 3) : BitVec 3 :=
  if raw = c.jtagAckWait then Config.ackWait
  else if raw = c.jtagAckFault then Config.ackFault
  else if raw = c.jtagAckOk then Config.ackOk
  else if raw = Config.ackOk ∨ raw = Config.ackWait ∨ raw = Config.ackFault then 0b000
  else raw

end Sys2Proof.Machine
end

