-- ==== Sys2Proof/Machine/Sequencer.lean ====
section
/-! DEFINITION. What the running command does between its register transactions: how each one begins, and what its
command does with the result. The pseudocode of 41 to 44 is cut at its calls of `low_access`; the part after a call is
the arm of `resume` for that call's `Cont`. The pseudocode is that of JTAG_POSTED false (U11: "The spec's rules and vectors
are for false only"); that it stands unchanged with true is the model's choice (log 21). -/

namespace Sys2Proof.Machine

/-- Call `low_access(rnw, addr, wval)`, to return to `k` (R130). -/
def beginAccess (rnw : Bool) (addr : BitVec 9) (wval : Word) (k : Cont) (s : State) : State :=
  ((s.setAcc ⟨rnw, addr, wval, 0⟩).setCont k).setStage .start

/-- The destroyed DebugPort (R252): no DebugPort, no AccessPort, no cache, no fault; `dp.idcode`, `dp.variant` and every
`ap[i].idr` are unspecified from here on (R50). -/
def destroyDp (s : State) : State :=
  forgetDp (discardAps (s.setDp { s.dp with valid := false, fault := false, selCache := none }))

/-! ### SELECT (R180) -/

/-- `ensure_select(s, bank)`, the test: `hit` goes on at once, otherwise SELECT is written and `k` goes on. -/
def ensureSelect (i : Byte) (bank : BitVec 4) (hit : State → State) (k : Cont) (s : State) : State :=
  if s.dp.selCache = some (i, bank) then hit s
  else beginAccess false Config.dpSelect (selectValue i bank) k s

/-- `ensure_select(s, bank)`, after the write: the cache holds the pair if the write was acknowledged OK (R180). -/
def selectWritten (i : Byte) (bank : BitVec 4) (o : AccessOutcome) (s : State) : State :=
  setSelCache (if o = .ok then some (i, bank) else none) s

/-! ### AP_READ, AP_WRITE, AP_SCAN: `ap_access` (R181) -/

/-- The AP an `ap_access` names. -/
def ApUse.select (u : ApUse) (s : State) : Byte :=
  match u with
  | .read | .write => s.port.argAp
  | .scan i _ => BitVec.ofNat 8 i

/-- The AP register an `ap_access` names: `ARG_ADDR[7:0]`, or IDR in a scan (R248). -/
def ApUse.reg (u : ApUse) (s : State) : Byte :=
  match u with
  | .read | .write => s.argApReg
  | .scan _ _ => Config.apIdr.setWidth 8

/-- `ap_access` after SELECT: one write, or the first access of a pipelined read (R181). -/
def apIssue (u : ApUse) (s : State) : State :=
  match u with
  | .write => beginAccess false (apAddress (u.reg s)) s.port.argValue (.ap u .last) s
  | .read | .scan _ _ => beginAccess true (apAddress (u.reg s)) 0 (.ap u .first) s

/-- `ap_access(s, addr, dir, value)` (R181). -/
def apAccess (u : ApUse) (s : State) : State :=
  ensureSelect (u.select s) (bankOf (u.reg s)) (apIssue u) (.ap u .select) s

/-- `ap_cache_effects(s, addr, dir, value, o)` (R183). -/
def apCacheEffects (i reg : Byte) (write : Bool) (value : Word) (o : AccessOutcome) (s : State) : State :=
  if o ≠ .ok then setTarCache i none (setCswCache i none s)
  else if apRegIndex reg = 0 ∧ write then setCswCache i (some value) s
  else if apRegIndex reg = 1 ∧ write then setTarCache i (some value) s
  else if apRegIndex reg = 3 then setTarCache i none s
  else s

/-- The end of AP_SCAN: `RSP_COUNT <- n; RSP_STATUS <- OK` (R248). -/
def scanDone (n : Nat) (s : State) : State := finish .ok (setRspCount (BitVec.ofNat 32 n) s)

/-- AP_SCAN at candidate `i`: past the last one the scan ends; with the fault latched every later candidate reads as
zero with no tap call, so nothing more is found (R249, log 24); otherwise its IDR is read (R248). -/
def scanCandidate (i n : Nat) (s : State) : State :=
  if Config.apselCount ≤ i then scanDone n s
  else if s.dp.fault then scanDone n s
  else apAccess (.scan i n) s

/-- The 5-byte record of R251. -/
def scanRecord (i : Byte) (idr : Word) : List Byte := i :: unitToBytes 4 idr

/-- AP_SCAN finds an AP: its object with its IDR, and its record in HBUF (R248, R251). -/
def scanFound (i n : Nat) (idr : Word) (s : State) : State :=
  (s.setAps (ApTable.change (BitVec.ofNat 8 i) (fun p => { p with present := true, idr := idr }) s.aps)).setHbuf
    (Memory.writeBytes s.hbuf (5 * n) (scanRecord (BitVec.ofNat 8 i) idr))

/-- AP_SCAN after the IDR of candidate `i` is known (R248, R250). -/
def scanNext (i n : Nat) (idr : Word) (s : State) : State :=
  if idr ≠ 0 then scanCandidate (i + 1) (n + 1) (scanFound i n idr s)
  else if s.cfg.apScanStopAtFirstZero then scanDone n s
  else scanCandidate (i + 1) n s

/-- What an `ap_access` returns to: AP_READ (R181), AP_WRITE (R182), AP_SCAN (R248). -/
def apDone (u : ApUse) (v : Word) (o : AccessOutcome) (s : State) : State :=
  match u with
  | .read =>
    finish .ok (setRspValue v (apCacheEffects s.port.argAp s.argApReg false 0 o s))
  | .write =>
    finish .ok (apCacheEffects s.port.argAp s.argApReg true s.port.argValue o s)
  | .scan i n => scanNext i n v s

/-- `ap_access` resumed (R160, R180, R181). With `JTAG_POSTED` too the first read's value is dropped and RDBUFF is read: the
model's choice (log 21). -/
def apResume (u : ApUse) (p : ApPos) (v : Word) (o : AccessOutcome) (s : State) : State :=
  match p with
  | .select =>
    let s := selectWritten (u.select s) (bankOf (u.reg s)) o s
    if o = .ok then apIssue u s else apDone u 0 o s
  | .first => if o = .ok then beginAccess true Config.dpRdbuff 0 (.ap u .last) s else apDone u 0 o s
  | .last => apDone u v o s

/-! ### MEM_READ, MEM_WRITE (43_mem_engine.md) -/

/-- The fault path begins: caches dropped, DAPABORT written (R212). -/
def memFault (rd : Bool) (s : State) : State :=
  beginAccess false Config.dpAbort Config.dapAbort (.mem rd .abort)
    (invalidateApCaches (setTarCache s.port.argAp none (setCswCache s.port.argAp none s)))

/-- The next access of the read pipeline with `k` units of the chunk not yet returned: the last value comes from
RDBUFF (R207), with `JTAG_POSTED` too (log 21). -/
def memReadNext (k : Nat) (s : State) : State :=
  if k ≤ 1 then beginAccess true Config.dpRdbuff 0 (.mem true (.unit k)) s
  else beginAccess true Config.apDrw 0 (.mem true (.unit k)) s

/-- The next unit of a write (R209). -/
def memWriteNext (k : Nat) (s : State) : State :=
  beginAccess false Config.apDrw (loadUnit s) (.mem false (.unit k)) s

/-- The data loop of a chunk of `k` units begins: a read primes the pipeline (R207), a write sends its first unit
(R209). -/
def memData (rd : Bool) (k : Nat) (s : State) : State :=
  if rd then beginAccess true Config.apDrw 0 (.mem true (.prime k)) s else memWriteNext k s

/-- The end of a transfer: `RSP_COUNT <- len; RSP_STATUS <- OK` (R206). -/
def memDone (s : State) : State := finish .ok (setRspCount s.port.argLen s)

/-- The chunk loop: TAR if it is not already right (R205), then the data loop (R206). -/
def memChunk (rd : Bool) (s : State) : State :=
  if s.win.done < s.win.units then
    let k := chunkUnits s.cfg s.win
    if s.tarCache s.port.argAp = some s.win.a then memData rd k s
    else beginAccess false Config.apTar s.win.a (.mem rd (.tar k)) s
  else memDone s

/-- After a chunk: `tar_cache` holds the running address inside a block, nothing at a boundary (R211). -/
def memChunkEnd (rd : Bool) (s : State) : State :=
  memChunk rd (setTarCache s.port.argAp (if blockOffset s.cfg s.win.a ≠ 0 then some s.win.a else none) s)

/-- CSW, only if the cached Size and AddrInc differ from what is needed (R204). -/
def memCsw (rd : Bool) (s : State) : State :=
  if cswFits s.win.sz (s.cswCache s.port.argAp) then memChunk rd s
  else beginAccess false Config.apCsw (cswValue s.cfg s.port.argAp s.win.sz) (.mem rd .csw) s

/-- SELECT of bank 0, then CSW (R204). -/
def memBegin (rd : Bool) (s : State) : State :=
  ensureSelect s.port.argAp 0 (memCsw rd) (.mem rd .select) s

/-- A unit has been confirmed, `k` units of the chunk remain (R207, R209). -/
def memUnitDone (rd : Bool) (k : Nat) (s : State) : State :=
  if k = 0 then memChunkEnd rd s
  else if rd then memReadNext k s else memWriteNext k s

/-- A memory transfer resumed (R204 to R212). With `JTAG_POSTED` too, where each access has collected its own answer, the
priming read's value is dropped and the chunk is closed by RDBUFF: the model's choice (log 21). -/
def memResume (rd : Bool) (p : MemPos) (v : Word) (o : AccessOutcome) (s : State) : State :=
  match p with
  | .select =>
    let s := selectWritten s.port.argAp 0 o s
    if o = .ok then memCsw rd s else memFault rd s
  | .csw =>
    if o = .ok then memChunk rd (setCswCache s.port.argAp (some (cswValue s.cfg s.port.argAp s.win.sz)) s)
    else memFault rd s
  | .tar k =>
    if o = .ok then memData rd k (setTarCache s.port.argAp (some s.win.a) s) else memFault rd s
  | .prime k => if o = .ok then memReadNext k s else memFault rd s
  | .unit k =>
    if o = .ok then memUnitDone rd (k - 1) (advanceWin (if rd then storeUnit v s else s)) else memFault rd s
  | .abort => finish .memoryFault (setRspCount (confirmedBytes s) s)

/-! ### Where a transaction returns to -/

/-- DP_ERROR after CTRL/STAT: the clear bits are written even when there are none (R163). -/
def errorClear (cs : Word) (s : State) : State :=
  beginAccess false Config.dpAbort (clearBits (stickyBits cs)) (.errorAbort (stickyBits cs)) s

/-- `low_access` returns `(v, o)` to the running command. With `JTAG_POSTED` too DP_READ of an AP register drops the first
value and reads RDBUFF (R160): the model's choice (log 21). -/
def resume (v : Word) (o : AccessOutcome) (s : State) : State :=
  match s.cont with
  | .none => clearPosition s
  | .scan => clearPosition s
  | .lowAccess => finish .ok (setRspValue v s)
  | .dpReadFirst =>
    if o = .ok then beginAccess true Config.dpRdbuff 0 .dpRead s else finish .ok (setRspValue 0 s)
  | .dpRead => finish .ok (setRspValue v s)
  | .dpWrite => finish .ok s
  | .dpAbort => finish .ok s
  | .errorRead => errorClear v s
  | .errorAbort err => finish .ok (setRspValue err (clearFault s))
  | .ap u p => apResume u p v o s
  | .mem rd p => memResume rd p v o s

/-- The end of a `low_access` that did not raise: `t0` is undefined from here on (R26), and the command goes on. -/
def returnAccess (v : Word) (o : AccessOutcome) (s : State) : State := resume v o (forgetT0 s)

end Sys2Proof.Machine
end

