-- ==== Sys2Proof/Machine/Transaction.lean ====
section
/-! DEFINITION. One register transaction, phase by phase (40_low_access.md): the two procedures of R132 and R133 and the
transitions of R141. The phases that have a row in the opcode table are its link operations; the short-circuit test and
the two clock readings have none and are internal. -/

namespace Sys2Proof.Machine

/-! ### Internal phases -/

/-- A `low_access` begins: an AP-addressed one on a latched fault makes no call and is skipped (R131); otherwise JTAG
loads its instruction register (R133) and SWD reads the clock (R132). -/
def startAccess (s : State) : State :=
  if isAp s.acc.addr ∧ s.dp.fault then returnAccess 0 .skipped (moveFsm .idle (moveFsm .faulted s))
  else match s.wire with
    | .swd => s.setStage .clock
    | .jtag => s.setStage .ir

/-- `t0 <- CLK.now_ms()` (R135); the call waits until the clock answers. -/
def sampleT0 (s : State) : State :=
  match s.clkIn with
  | [] => s
  | now :: rest => (((logCall .nowMs s).setClkIn rest).setT0 now).setStage .request

/-- Where a retry begins: at the request (R135, D11); with `JTAG_POSTED` an AP-addressed access loads its instruction
register again first, for the collecting scan left DPACC there (log 21). -/
def retryStage (s : State) : Stage :=
  if s.cfg.jtagPosted ∧ s.wire = .jtag ∧ isAp s.acc.addr then .reloadIr else .request

/-- After WAIT: read the clock, and retry if and only if `(now - t0) mod 2^32 < WAIT_TIMEOUT_MS` (R135, R136); the call
waits until the clock answers. -/
def retryOrTimeout (s : State) : State :=
  match s.clkIn with
  | [] => s.setStage .retryClock
  | now :: rest =>
    let s := (logCall .nowMs s).setClkIn rest
    if now - s.t0 < s.cfg.waitTimeoutMs then s.setStage (retryStage s) else raise .timeout s

/-! ### Sending -/

/-- DP_SCAN makes its IDCODE read inline: it is no `low_access` and `fsm` stays Idle (R25, R243). -/
def moveFsmInAccess (f : Fsm) (s : State) : State := if s.cont = .scan then s else moveFsm f s

/-- `fsm <- RequestSent; TAP.seq_out(req, 8)` (R132). -/
def sendRequest (req : Byte) (s : State) : State :=
  (logCall (.seqOut (req.setWidth 32) 8) (moveFsmInAccess .requestSent s)).setStage .ack

/-- What follows an instruction register load: the clock reading of R133; on a retry the request, and before a
collecting scan that scan (log 21). -/
def afterIr : Stage → Stage
  | .reloadIr => .request
  | .collectIr => .collect
  | .idle | .start | .ir | .clock | .request | .drain | .collect | .ack | .retryClock | .data | .flush => .clock
  | .lineReset => .clock

/-- `TAP.jtag_ir(c)` (R133). -/
def loadIr (c : BitVec 4) (s : State) : State := (logCall (.jtagIr c) s).setStage (afterIr s.stage)

/-- `fsm <- RequestSent; TAP.jtag_dr(o35)` (R133); what it shifts out is taken with the acknowledge, or, with
`JTAG_POSTED`, dropped, and a further scan collects the response (U11, log 21). -/
def shiftScan (o : BitVec 35) (s : State) : State :=
  if s.stage = .collect then (logCall (.jtagDr o) s).setStage .ack
  else (logCall (.jtagDr o) (moveFsm .requestSent s)).setStage (if s.cfg.jtagPosted then .drain else .ack)

/-- `JTAG_POSTED`: the bits of the request scan answer the scan before and are dropped; the call waits until they come.
The collecting scan reads RDBUFF, under DPACC (U11, log 21). -/
def dropResponse (s : State) : State :=
  match s.tapIn with
  | [] => s
  | _ :: rest => (s.setTapIn rest).setStage (if isAp s.acc.addr then .collectIr else .collect)

/-! ### Acknowledges -/

/-- On SWD the acknowledge is `TAP.seq_in(3)` (R132); on JTAG it came with the scan (R133). -/
def receiveAck (s : State) : State :=
  match s.wire with
  | .swd => logCall (.seqIn 3) s
  | .jtag => s

/-- `FLUSH_ON_NON_OK` (R95, D8, log 20): the flush after a transaction that was not acknowledged OK, SWD only. -/
def flushNonOk (s : State) : State :=
  if s.cfg.flushOnNonOk ∧ s.wire = .swd then logCall (.seqOut (Config.flushValue.setWidth 32) Config.flushBits) s else s

/-- A failed DP_SCAN creates nothing (R242). -/
def scanFailed (s : State) : State := finish .noDp s

/-- ACK = OK: on to the data phase (R134); on JTAG it has come with the scan, and the access is complete (R133). -/
def acceptOk (s : State) : State :=
  let s := moveFsmInAccess .dataPhase (receiveAck s)
  match s.wire with
  | .swd => s.setStage .data
  | .jtag => returnAccess (if s.acc.rnw then s.acc.value else 0) .ok (moveFsm .idle s)

/-- ACK = WAIT: retry within the window (R135); in a scan it is a failure (R243). -/
def acceptWait (s : State) : State :=
  let s := receiveAck s
  if s.cont = .scan then scanFailed s
  else retryOrTimeout (flushNonOk (moveFsm .retrying s))

/-- ACK = FAULT: latch `dp.fault`, return 0 without raising (R137); in a scan it is a failure and latches nothing
(R243). -/
def acceptFault (s : State) : State :=
  let s := receiveAck s
  if s.cont = .scan then scanFailed s
  else returnAccess 0 .fault (moveFsm .idle (flushNonOk (latchFault (moveFsm .faulted s))))

/-- Any other pattern: ProtocolError(BAD_ACK), no retry (R138); in a scan it is a failure (R242). -/
def acceptInvalid (s : State) : State :=
  let s := receiveAck s
  if s.cont = .scan then scanFailed s else raise .badAck (flushNonOk s)

/-! ### Data phase and flush (SWD) -/

/-- The data phase of a read: `TAP.seq_in_par(32)`; a word whose parity bit is wrong is discarded (R132, R139), and in a
scan it fails the scan (R242). -/
def receiveData (data : Word) (parity : Bool) (s : State) : State :=
  let s := logCall (.seqInPar 32) s
  if parity = evenParity data then (s.setAcc { s.acc with value := data }).setStage .flush
  else if s.cont = .scan then scanFailed s
  else raise .parity s

/-- The data phase of a write: `TAP.seq_out_par(wval, 32); v <- 0` (R132). -/
def transmitData (data : Word) (s : State) : State :=
  (logCall (.seqOutPar data 32) (s.setAcc { s.acc with value := 0 })).setStage .flush

/-- A successful DP_SCAN creates the DebugPort (R240, R241). -/
def scanSucceeded (s : State) : State :=
  finish .ok (setRspValue s.acc.value
    (s.setDp { s.dp with valid := true, idcode := s.acc.value, variant := .swd }))

/-- `TAP.seq_out(0, 8)`, and the transaction is complete (R95, R132, R244). -/
def flushLine (s : State) : State :=
  let s := logCall (.seqOut (Config.flushValue.setWidth 32) Config.flushBits) s
  if s.cont = .scan then scanSucceeded s
  else returnAccess s.acc.value .ok (moveFsm .idle s)

/-! ### The line reset (R105, R240) -/

/-- `TAP.init()` and the first run of ones (R240). -/
def lineResetBegin (s : State) : State :=
  (logCalls s.cfg.lineResetHighCycles (.bitOut true) (logCall .init s)).setStage .lineReset

/-- The switch sequence, the second run of ones, the sixteen zeros (R240). -/
def lineResetSwitch (s : State) : State :=
  let s := logCall (.seqOut (Config.switchSeq.setWidth 32) 16) s
  let s := logCalls s.cfg.lineResetHighCycles (.bitOut true) s
  (logCall (.seqOut 0 16) s).setStage .request

/-! ### The phase guard (log 19) -/

/-- A link operation acts in its own phase only; at another one it is refused by name (R141). -/
def inPhase (g : Bool) (f : State → State) (s : State) : Host.Outcome State Fault Refusal :=
  if g then .next (f s) else .refused .outOfPhase

/-- An SWD request is due. -/
def State.awaitsSwdRequest (s : State) : Bool := s.stage = .request ∧ s.wire = .swd

/-- A JTAG scan is due. -/
def State.awaitsScan (s : State) : Bool := s.stage = .request ∧ s.wire = .jtag ∨ s.stage = .collect

/-- An instruction register load is due. -/
def State.awaitsIr (s : State) : Bool := s.stage = .ir ∨ s.stage = .reloadIr ∨ s.stage = .collectIr

/-- An acknowledge is due. -/
def State.awaitsAck (s : State) : Bool := s.stage = .ack

/-- A data phase is due. -/
def State.awaitsData (s : State) : Bool := s.stage = .data

/-- A flush is due. -/
def State.awaitsFlush (s : State) : Bool := s.stage = .flush

/-- The switch sequence is due. -/
def State.awaitsSwitch (s : State) : Bool := s.stage = .lineReset

end Sys2Proof.Machine
end

