-- ==== Sys2Proof/Machine/Ack.lean ====
section
/-! DEFINITION. The eight acknowledge patterns (30_encoding.md R93, 40_low_access.md R134 to R138). -/

namespace Sys2Proof.Machine

/-- ACK.OK (R134). -/
def execAckOk (s : State) : Host.Outcome State Fault Refusal :=
  inPhase s.awaitsAck acceptOk s

/-- ACK.WAIT (R135, R136). -/
def execAckWait (s : State) : Host.Outcome State Fault Refusal :=
  inPhase s.awaitsAck acceptWait s

/-- ACK.FAULT (R137). -/
def execAckFault (s : State) : Host.Outcome State Fault Refusal :=
  inPhase s.awaitsAck acceptFault s

/-- ACK.INVALID.0: the pattern 0b000 (R138). -/
def execAckInvalid0 (s : State) : Host.Outcome State Fault Refusal :=
  inPhase s.awaitsAck acceptInvalid s

/-- ACK.INVALID.3: the pattern 0b011 (R138). -/
def execAckInvalid3 (s : State) : Host.Outcome State Fault Refusal :=
  inPhase s.awaitsAck acceptInvalid s

/-- ACK.INVALID.5: the pattern 0b101 (R138). -/
def execAckInvalid5 (s : State) : Host.Outcome State Fault Refusal :=
  inPhase s.awaitsAck acceptInvalid s

/-- ACK.INVALID.6: the pattern 0b110 (R138). -/
def execAckInvalid6 (s : State) : Host.Outcome State Fault Refusal :=
  inPhase s.awaitsAck acceptInvalid s

/-- ACK.INVALID.7: the pattern 0b111 (R138). -/
def execAckInvalid7 (s : State) : Host.Outcome State Fault Refusal :=
  inPhase s.awaitsAck acceptInvalid s

end Sys2Proof.Machine
end

