-- ==== Sys2Proof/Machine/Frame.lean ====
section
/-! DEFINITION. The SWD data phase, the flush and the switch sequence (30_encoding.md R94, R95, R105). -/

namespace Sys2Proof.Machine

/-- SWD.DATA: the data phase of the access in flight, received on a read, sent on a write (R94, R132, R139). -/
def execSwdData (data : Word) (parity : Bool) (s : State) : Host.Outcome State Fault Refusal :=
  inPhase s.awaitsData (if s.acc.rnw then receiveData data parity else transmitData data) s

/-- SWD.FLUSH: eight idle bits, and the transaction is complete (R95, R132). -/
def execSwdFlush (s : State) : Host.Outcome State Fault Refusal :=
  inPhase s.awaitsFlush flushLine s

/-- SWD.JTAG2SWD: the switch sequence and the rest of the line reset (R105, R240). -/
def execSwdJtag2Swd (s : State) : Host.Outcome State Fault Refusal :=
  inPhase s.awaitsSwitch lineResetSwitch s

end Sys2Proof.Machine
end

