-- ==== Sys2Proof/Machine/Jtag.lean ====
section
/-! DEFINITION. The JTAG scans and instruction codes (30_encoding.md R97, R98, 40_low_access.md R133). -/

namespace Sys2Proof.Machine

/-- JTAG.DP.WR.0: shift the DR word of a write of DP offset 0x0, ABORT (R98, R133). -/
def execJtagDpWr0 (data : Word) (s : State) : Host.Outcome State Fault Refusal :=
  inPhase s.awaitsScan (shiftScan (jtagDrWord false 0 data)) s

/-- JTAG.DP.RD.0: shift the DR word of a read of DP offset 0x0, IDCODE (R98, R133). -/
def execJtagDpRd0 (data : Word) (s : State) : Host.Outcome State Fault Refusal :=
  inPhase s.awaitsScan (shiftScan (jtagDrWord true 0 data)) s

/-- JTAG.DP.WR.4: shift the DR word of a write of DP offset 0x4, CTRL/STAT (R98, R133). -/
def execJtagDpWr4 (data : Word) (s : State) : Host.Outcome State Fault Refusal :=
  inPhase s.awaitsScan (shiftScan (jtagDrWord false 1 data)) s

/-- JTAG.DP.RD.4: shift the DR word of a read of DP offset 0x4, CTRL/STAT (R98, R133). -/
def execJtagDpRd4 (data : Word) (s : State) : Host.Outcome State Fault Refusal :=
  inPhase s.awaitsScan (shiftScan (jtagDrWord true 1 data)) s

/-- JTAG.DP.WR.8: shift the DR word of a write of DP offset 0x8, SELECT (R98, R133). -/
def execJtagDpWr8 (data : Word) (s : State) : Host.Outcome State Fault Refusal :=
  inPhase s.awaitsScan (shiftScan (jtagDrWord false 2 data)) s

/-- JTAG.DP.RD.8: shift the DR word of a read of DP offset 0x8, not named by the source (R98, R133). -/
def execJtagDpRd8 (data : Word) (s : State) : Host.Outcome State Fault Refusal :=
  inPhase s.awaitsScan (shiftScan (jtagDrWord true 2 data)) s

/-- JTAG.DP.WR.C: shift the DR word of a write of DP offset 0xC, not named by the source (R98, R133). -/
def execJtagDpWrC (data : Word) (s : State) : Host.Outcome State Fault Refusal :=
  inPhase s.awaitsScan (shiftScan (jtagDrWord false 3 data)) s

/-- JTAG.DP.RD.C: shift the DR word of a read of DP offset 0xC, RDBUFF (R98, R133). -/
def execJtagDpRdC (data : Word) (s : State) : Host.Outcome State Fault Refusal :=
  inPhase s.awaitsScan (shiftScan (jtagDrWord true 3 data)) s

/-- JTAG.AP.WR.0: shift the DR word of a write of AP offset 0x0, AP bank register 0 (CSW in bank 0) (R98, R133). -/
def execJtagApWr0 (data : Word) (s : State) : Host.Outcome State Fault Refusal :=
  inPhase s.awaitsScan (shiftScan (jtagDrWord false 0 data)) s

/-- JTAG.AP.RD.0: shift the DR word of a read of AP offset 0x0, AP bank register 0 (CSW in bank 0) (R98, R133). -/
def execJtagApRd0 (data : Word) (s : State) : Host.Outcome State Fault Refusal :=
  inPhase s.awaitsScan (shiftScan (jtagDrWord true 0 data)) s

/-- JTAG.AP.WR.4: shift the DR word of a write of AP offset 0x4, AP bank register 1 (TAR in bank 0) (R98, R133). -/
def execJtagApWr4 (data : Word) (s : State) : Host.Outcome State Fault Refusal :=
  inPhase s.awaitsScan (shiftScan (jtagDrWord false 1 data)) s

/-- JTAG.AP.RD.4: shift the DR word of a read of AP offset 0x4, AP bank register 1 (TAR in bank 0) (R98, R133). -/
def execJtagApRd4 (data : Word) (s : State) : Host.Outcome State Fault Refusal :=
  inPhase s.awaitsScan (shiftScan (jtagDrWord true 1 data)) s

/-- JTAG.AP.WR.8: shift the DR word of a write of AP offset 0x8, AP bank register 2 (BASE in bank 0xF) (R98, R133). -/
def execJtagApWr8 (data : Word) (s : State) : Host.Outcome State Fault Refusal :=
  inPhase s.awaitsScan (shiftScan (jtagDrWord false 2 data)) s

/-- JTAG.AP.RD.8: shift the DR word of a read of AP offset 0x8, AP bank register 2 (BASE in bank 0xF) (R98, R133). -/
def execJtagApRd8 (data : Word) (s : State) : Host.Outcome State Fault Refusal :=
  inPhase s.awaitsScan (shiftScan (jtagDrWord true 2 data)) s

/-- JTAG.AP.WR.C: shift the DR word of a write of AP offset 0xC, AP bank register 3 (DRW in bank 0, IDR in bank 0xF) (R98, R133). -/
def execJtagApWrC (data : Word) (s : State) : Host.Outcome State Fault Refusal :=
  inPhase s.awaitsScan (shiftScan (jtagDrWord false 3 data)) s

/-- JTAG.AP.RD.C: shift the DR word of a read of AP offset 0xC, AP bank register 3 (DRW in bank 0, IDR in bank 0xF) (R98, R133). -/
def execJtagApRdC (data : Word) (s : State) : Host.Outcome State Fault Refusal :=
  inPhase s.awaitsScan (shiftScan (jtagDrWord true 3 data)) s

/-- JTAG.IR.DPACC: `TAP.jtag_ir(IR_DPACC)` (R97, R133). -/
def execJtagIrDpacc (s : State) : Host.Outcome State Fault Refusal :=
  inPhase s.awaitsIr (loadIr Config.irDpacc) s

/-- JTAG.IR.APACC: `TAP.jtag_ir(IR_APACC)` (R97, R133). -/
def execJtagIrApacc (s : State) : Host.Outcome State Fault Refusal :=
  inPhase s.awaitsIr (loadIr Config.irApacc) s

end Sys2Proof.Machine
end

