-- ==== Sys2Proof/Machine/Swd.lean ====
section
/-! DEFINITION. The sixteen SWD requests (30_encoding.md R90 to R92, 40_low_access.md R132): each sends its request byte. -/

namespace Sys2Proof.Machine

/-- SWD.DP.WR.0: `TAP.seq_out(0x81, 8)`, to reach ABORT (R92, R132). -/
def execSwdDpWr0 (s : State) : Host.Outcome State Fault Refusal :=
  inPhase s.awaitsSwdRequest (sendRequest (requestByte false false 0)) s

/-- SWD.DP.RD.0: `TAP.seq_out(0xA5, 8)`, to reach IDCODE (R92, R132). -/
def execSwdDpRd0 (s : State) : Host.Outcome State Fault Refusal :=
  inPhase s.awaitsSwdRequest (sendRequest (requestByte false true 0)) s

/-- SWD.DP.WR.4: `TAP.seq_out(0xA9, 8)`, to reach CTRL/STAT (R92, R132). -/
def execSwdDpWr4 (s : State) : Host.Outcome State Fault Refusal :=
  inPhase s.awaitsSwdRequest (sendRequest (requestByte false false 1)) s

/-- SWD.DP.RD.4: `TAP.seq_out(0x8D, 8)`, to reach CTRL/STAT (R92, R132). -/
def execSwdDpRd4 (s : State) : Host.Outcome State Fault Refusal :=
  inPhase s.awaitsSwdRequest (sendRequest (requestByte false true 1)) s

/-- SWD.DP.WR.8: `TAP.seq_out(0xB1, 8)`, to reach SELECT (R92, R132). -/
def execSwdDpWr8 (s : State) : Host.Outcome State Fault Refusal :=
  inPhase s.awaitsSwdRequest (sendRequest (requestByte false false 2)) s

/-- SWD.DP.RD.8: `TAP.seq_out(0x95, 8)`, to reach not named by the source (R92, R132). -/
def execSwdDpRd8 (s : State) : Host.Outcome State Fault Refusal :=
  inPhase s.awaitsSwdRequest (sendRequest (requestByte false true 2)) s

/-- SWD.DP.WR.C: `TAP.seq_out(0x99, 8)`, to reach not named by the source (R92, R132). -/
def execSwdDpWrC (s : State) : Host.Outcome State Fault Refusal :=
  inPhase s.awaitsSwdRequest (sendRequest (requestByte false false 3)) s

/-- SWD.DP.RD.C: `TAP.seq_out(0xBD, 8)`, to reach RDBUFF (R92, R132). -/
def execSwdDpRdC (s : State) : Host.Outcome State Fault Refusal :=
  inPhase s.awaitsSwdRequest (sendRequest (requestByte false true 3)) s

/-- SWD.AP.WR.0: `TAP.seq_out(0xA3, 8)`, to reach AP bank register 0 (CSW in bank 0) (R92, R132). -/
def execSwdApWr0 (s : State) : Host.Outcome State Fault Refusal :=
  inPhase s.awaitsSwdRequest (sendRequest (requestByte true false 0)) s

/-- SWD.AP.RD.0: `TAP.seq_out(0x87, 8)`, to reach AP bank register 0 (CSW in bank 0) (R92, R132). -/
def execSwdApRd0 (s : State) : Host.Outcome State Fault Refusal :=
  inPhase s.awaitsSwdRequest (sendRequest (requestByte true true 0)) s

/-- SWD.AP.WR.4: `TAP.seq_out(0x8B, 8)`, to reach AP bank register 1 (TAR in bank 0) (R92, R132). -/
def execSwdApWr4 (s : State) : Host.Outcome State Fault Refusal :=
  inPhase s.awaitsSwdRequest (sendRequest (requestByte true false 1)) s

/-- SWD.AP.RD.4: `TAP.seq_out(0xAF, 8)`, to reach AP bank register 1 (TAR in bank 0) (R92, R132). -/
def execSwdApRd4 (s : State) : Host.Outcome State Fault Refusal :=
  inPhase s.awaitsSwdRequest (sendRequest (requestByte true true 1)) s

/-- SWD.AP.WR.8: `TAP.seq_out(0x93, 8)`, to reach AP bank register 2 (BASE in bank 0xF) (R92, R132). -/
def execSwdApWr8 (s : State) : Host.Outcome State Fault Refusal :=
  inPhase s.awaitsSwdRequest (sendRequest (requestByte true false 2)) s

/-- SWD.AP.RD.8: `TAP.seq_out(0xB7, 8)`, to reach AP bank register 2 (BASE in bank 0xF) (R92, R132). -/
def execSwdApRd8 (s : State) : Host.Outcome State Fault Refusal :=
  inPhase s.awaitsSwdRequest (sendRequest (requestByte true true 2)) s

/-- SWD.AP.WR.C: `TAP.seq_out(0xBB, 8)`, to reach AP bank register 3 (DRW in bank 0, IDR in bank 0xF) (R92, R132). -/
def execSwdApWrC (s : State) : Host.Outcome State Fault Refusal :=
  inPhase s.awaitsSwdRequest (sendRequest (requestByte true false 3)) s

/-- SWD.AP.RD.C: `TAP.seq_out(0x9F, 8)`, to reach AP bank register 3 (DRW in bank 0, IDR in bank 0xF) (R92, R132). -/
def execSwdApRdC (s : State) : Host.Outcome State Fault Refusal :=
  inPhase s.awaitsSwdRequest (sendRequest (requestByte true true 3)) s

end Sys2Proof.Machine
end

