-- ==== Sys2Proof/Machine/Drive.lean ====
section
/-! DEFINITION. What the engine takes next, and the run of a command through its link operations (log 5).

`fetch` says which word stands next at the engine: a host opcode while it is idle, a link word in the format of its
phase while a command runs. The word of a request, of a written data phase, of a flush is composed by the engine; an
acknowledge and a read data phase are what the transport answers. -/

namespace Sys2Proof.Machine

/-- What stands next at the engine. -/
inductive Fetched
  /-- Nothing can happen: the engine waits for the host, the transport or the clock. -/
  | wait
  /-- A move that has no row in the opcode table: a host write, the short-circuit test, a clock reading. -/
  | moved (s : State)
  /-- A word of a format, and the state once it is taken. -/
  | word (f : Format) (w : BitVec 40) (s : State)

/-- The 33 bits the transport receives in a read data phase: its verdict is whether the parity bit is the data's (R94,
log 17). -/
def TapReply.dataWord (r : TapReply) : BitVec 33 :=
  let v := r.bits.setWidth 32
  dataPhaseWord v (if r.parityOk then evenParity v else !evenParity v)

/-- Idle: the host's next act (R27, log 1). -/
def fetchHost (s : State) : Fetched :=
  match s.hostIn with
  | [] => .wait
  | .command op :: rest => .word .cmd (op.setWidth 40) (hostWrite (.command op) (s.setHostIn rest))
  | .argAp v :: rest => .moved (hostWrite (.argAp v) (s.setHostIn rest))
  | .argAddr v :: rest => .moved (hostWrite (.argAddr v) (s.setHostIn rest))
  | .argValue v :: rest => .moved (hostWrite (.argValue v) (s.setHostIn rest))
  | .argLen v :: rest => .moved (hostWrite (.argLen v) (s.setHostIn rest))
  | .hbuf i b :: rest => .moved (hostWrite (.hbuf i b) (s.setHostIn rest))

/-- The request of the access in flight (R90, R98). -/
def fetchRequest (s : State) : Fetched :=
  match s.wire with
  | .swd => .word .swdReq (s.acc.request.setWidth 40) s
  | .jtag => .word (.jtagDr (isAp s.acc.addr)) (s.acc.scanWord.setWidth 40) s

/-- The acknowledge: three bits on SWD (R93); on JTAG the low bits of what the scan shifted out, whose bits [34:3] are
the data (R98, R99). -/
def fetchAck (s : State) : Fetched :=
  match s.tapIn with
  | [] => .wait
  | r :: rest =>
    let s := s.setTapIn rest
    match s.wire with
    | .swd => .word .ack ((r.bits.extractLsb' 0 3).setWidth 40) s
    | .jtag =>
      .word .ack ((jtagAck s.cfg (r.bits.extractLsb' 0 3)).setWidth 40)
        (s.setAcc { s.acc with value := r.bits.extractLsb' 3 32 })

/-- With `JTAG_POSTED`, what the request scan shifts out (U11, log 21). -/
def fetchDrain (s : State) : Fetched :=
  match s.tapIn with
  | [] => .wait
  | _ :: _ => .moved (dropResponse s)

/-- The data phase: on a read what the transport receives, on a write the data and the parity it appends (R94). -/
def fetchData (s : State) : Fetched :=
  if s.acc.rnw then
    match s.tapIn with
    | [] => .wait
    | r :: rest => .word .swdData (r.dataWord.setWidth 40) (s.setTapIn rest)
  else .word .swdData ((dataPhaseWord s.acc.wval (evenParity s.acc.wval)).setWidth 40) s

/-- A clock reading is due; the engine waits until there is one (R11). -/
def fetchClock (f : State → State) (s : State) : Fetched :=
  match s.clkIn with
  | [] => .wait
  | _ :: _ => .moved (f s)

/-- What stands next at the engine, by its phase. -/
def fetch (s : State) : Fetched :=
  match s.stage with
  | .idle => fetchHost s
  | .start => .moved (startAccess s)
  | .ir | .reloadIr => .word .jtagIr ((irCode s.acc.addr).setWidth 40) s
  | .clock => fetchClock sampleT0 s
  | .request => fetchRequest s
  | .drain => fetchDrain s
  | .collectIr => .word .jtagIr (Config.irDpacc.setWidth 40) s
  | .collect => .word (.jtagDr false) (collectWord.setWidth 40) s
  | .ack => fetchAck s
  | .retryClock => fetchClock retryOrTimeout s
  | .data => fetchData s
  | .flush => .word .swdFlush (Config.flushValue.setWidth 40) s
  | .lineReset => .word .lineReset (Config.switchSeq.setWidth 40) s

/-- An opcode not in R107: no tap call, no change but `RSP_STATUS`, status BAD_CMD (R108 a). A link word that is no
instruction stops the machine (no state reaches it). -/
def rejectWord (f : Format) (s : State) : Host.Outcome State Fault Refusal :=
  match f with
  | .cmd => .next (setStatus .badCmd s)
  | .swdReq | .ack | .swdData | .swdFlush | .jtagIr | .jtagDr _ | .lineReset => .fault .linkWordUndecodable

/-- The link operations: the meaning of each row that is not a host command. A host command here is a command issued
while another runs (R296). -/
def execLink (i : Instr) (s : State) : Host.Outcome State Fault Refusal :=
  match i with
  | .swdDpWr0 => execSwdDpWr0 s
  | .swdDpRd0 => execSwdDpRd0 s
  | .swdDpWr4 => execSwdDpWr4 s
  | .swdDpRd4 => execSwdDpRd4 s
  | .swdDpWr8 => execSwdDpWr8 s
  | .swdDpRd8 => execSwdDpRd8 s
  | .swdDpWrC => execSwdDpWrC s
  | .swdDpRdC => execSwdDpRdC s
  | .swdApWr0 => execSwdApWr0 s
  | .swdApRd0 => execSwdApRd0 s
  | .swdApWr4 => execSwdApWr4 s
  | .swdApRd4 => execSwdApRd4 s
  | .swdApWr8 => execSwdApWr8 s
  | .swdApRd8 => execSwdApRd8 s
  | .swdApWrC => execSwdApWrC s
  | .swdApRdC => execSwdApRdC s
  | .jtagDpWr0 data => execJtagDpWr0 data s
  | .jtagDpRd0 data => execJtagDpRd0 data s
  | .jtagDpWr4 data => execJtagDpWr4 data s
  | .jtagDpRd4 data => execJtagDpRd4 data s
  | .jtagDpWr8 data => execJtagDpWr8 data s
  | .jtagDpRd8 data => execJtagDpRd8 data s
  | .jtagDpWrC data => execJtagDpWrC data s
  | .jtagDpRdC data => execJtagDpRdC data s
  | .jtagApWr0 data => execJtagApWr0 data s
  | .jtagApRd0 data => execJtagApRd0 data s
  | .jtagApWr4 data => execJtagApWr4 data s
  | .jtagApRd4 data => execJtagApRd4 data s
  | .jtagApWr8 data => execJtagApWr8 data s
  | .jtagApRd8 data => execJtagApRd8 data s
  | .jtagApWrC data => execJtagApWrC data s
  | .jtagApRdC data => execJtagApRdC data s
  | .jtagIrDpacc => execJtagIrDpacc s
  | .jtagIrApacc => execJtagIrApacc s
  | .ackOk => execAckOk s
  | .ackWait => execAckWait s
  | .ackFault => execAckFault s
  | .ackInvalid0 => execAckInvalid0 s
  | .ackInvalid3 => execAckInvalid3 s
  | .ackInvalid5 => execAckInvalid5 s
  | .ackInvalid6 => execAckInvalid6 s
  | .ackInvalid7 => execAckInvalid7 s
  | .swdData data parity => execSwdData data parity s
  | .swdFlush => execSwdFlush s
  | .swdJtag2Swd => execSwdJtag2Swd s
  | .dpScan => .refused .commandWhileBusy
  | .dpAttachJtag => .refused .commandWhileBusy
  | .detach => .refused .commandWhileBusy
  | .lowAccessRd => .refused .commandWhileBusy
  | .lowAccessWr => .refused .commandWhileBusy
  | .dpRead => .refused .commandWhileBusy
  | .dpWrite => .refused .commandWhileBusy
  | .dpError => .refused .commandWhileBusy
  | .dpAbort => .refused .commandWhileBusy
  | .apScan => .refused .commandWhileBusy
  | .apRead => .refused .commandWhileBusy
  | .apWrite => .refused .commandWhileBusy
  | .memRead => .refused .commandWhileBusy
  | .memWrite => .refused .commandWhileBusy
  | .cacheInvalidate => .refused .commandWhileBusy

/-- One link operation, or one internal move, of the running command. -/
def linkStep (s : State) : Host.Outcome State Fault Refusal :=
  if s.stage = .idle then .next s
  else match fetch s with
    | .wait => .next s
    | .moved s' => .next s'
    | .word f w s' =>
      match decode f w with
      | .ok i => execLink i s'
      | .error _ => rejectWord f s'

/-- At most `n` of them. A command that has completed, or that waits for an answer, stays as it is. -/
def drive : Nat → State → Host.Outcome State Fault Refusal
  | 0, s => .next s
  | n + 1, s =>
    match linkStep s with
    | .next s' => drive n s'
    | .fault r => .fault r
    | .refused r => .refused r

/-- How many moves the answers at hand can feed: no attempt of a `low_access` takes more than eight, and each that is
made takes an answer of the transport. -/
def fuel (s : State) : Nat := 8 * (s.tapIn.length + s.clkIn.length) + 8

/-- Run the command that has just begun as far as the answers at hand carry it (log 5). -/
def launch (s : State) : Host.Outcome State Fault Refusal := drive (fuel s) s

/-- A host command is taken when no command runs; otherwise "The spec gives it no meaning" (R296, log 19). -/
def onIdle (f : State → State) (s : State) : Host.Outcome State Fault Refusal :=
  if s.stage = .idle then launch (f s) else .refused .commandWhileBusy

end Sys2Proof.Machine
end

