-- ==== Sys2Proof/Machine/ScanCommands.lean ====
section
/-! DEFINITION. The scan family (44_scan.md): DP_SCAN, DP_ATTACH_JTAG, AP_SCAN, DETACH. -/

namespace Sys2Proof.Machine

/-- A command that needs a DebugPort completes `NO_DP` without one (R265). -/
def needDp (f : State → State) (s : State) : State := if s.dp.valid then f s else setStatus .noDp s

/-- DP_SCAN begins: the old DebugPort is destroyed, then the line reset with the inline IDCODE read (R240). -/
def beginDpScan (s : State) : State :=
  lineResetBegin (((destroyDp s).setAcc ⟨true, Config.dpIdcode, 0, 0⟩).setCont .scan)

/-- DP_SCAN (R240). -/
def execDpScan (s : State) : Host.Outcome State Fault Refusal := onIdle beginDpScan s

/-- DP_ATTACH_JTAG: no tap call (R247). -/
def attachJtag (s : State) : State :=
  let s := destroyDp s
  let s := s.setDp { s.dp with valid := true, idcode := s.port.argValue, variant := .jtag }
  setStatus .ok (setRspValue s.port.argValue s)

/-- DP_ATTACH_JTAG (R247). -/
def execDpAttachJtag (s : State) : Host.Outcome State Fault Refusal := onIdle attachJtag s

/-- DETACH: no tap call, legal with no DebugPort (R252). -/
def detach (s : State) : State := setStatus .ok (destroyDp s)

/-- DETACH (R252). -/
def execDetach (s : State) : Host.Outcome State Fault Refusal := onIdle detach s

/-- AP_SCAN begins: every AccessPort object is gone, its IDR unwritten; then candidate 0 (R248). -/
def beginApScan (s : State) : State := needDp (fun s => scanCandidate 0 0 (discardAps s)) s

/-- AP_SCAN (R248). -/
def execApScan (s : State) : Host.Outcome State Fault Refusal := onIdle beginApScan s

end Sys2Proof.Machine
end

