-- ==== Sys2Proof/Machine/LowAccessCommands.lean ====
section
/-! DEFINITION. The low-level access family (40_low_access.md R143) and the cache effects of the commands that reach the
target under the AP layer (41_dp_ops.md R165). -/

namespace Sys2Proof.Machine

/-- `raw_cache_effects(addr, dir, value)` (R165). -/
def rawCacheEffects (addr : BitVec 9) (write : Bool) (value : Word) (s : State) : State :=
  if isAp addr then invalidateApCaches s
  else if write ∧ regBits addr = 0b10#2 then setSelCache none s
  else if write ∧ regBits addr = 0b00#2 ∧ value.getLsbD 0 then invalidateApCaches s
  else s

/-- LOW_ACCESS_RD begins (R143). -/
def beginLowAccessRd (s : State) : State :=
  needDp (fun s =>
    beginAccess true s.argReg s.port.argValue .lowAccess (rawCacheEffects s.argReg false s.port.argValue s)) s

/-- LOW_ACCESS_RD (R143). -/
def execLowAccessRd (s : State) : Host.Outcome State Fault Refusal := onIdle beginLowAccessRd s

/-- LOW_ACCESS_WR begins (R143). -/
def beginLowAccessWr (s : State) : State :=
  needDp (fun s =>
    beginAccess false s.argReg s.port.argValue .lowAccess (rawCacheEffects s.argReg true s.port.argValue s)) s

/-- LOW_ACCESS_WR (R143). -/
def execLowAccessWr (s : State) : Host.Outcome State Fault Refusal := onIdle beginLowAccessWr s

end Sys2Proof.Machine
end

