-- ==== Sys2Proof/Machine/DpCommands.lean ====
section
/-! DEFINITION. The Debug Port operations (41_dp_ops.md): DP_READ, DP_WRITE, DP_ERROR, DP_ABORT. -/

namespace Sys2Proof.Machine

/-- DP_READ begins: an AP register takes two accesses, a DP register one (R160). -/
def beginDpRead (s : State) : State :=
  needDp (fun s =>
    beginAccess true s.argReg 0 (if isAp s.argReg then .dpReadFirst else .dpRead)
      (rawCacheEffects s.argReg false 0 s)) s

/-- DP_READ (R160). -/
def execDpRead (s : State) : Host.Outcome State Fault Refusal := onIdle beginDpRead s

/-- DP_WRITE begins (R162). -/
def beginDpWrite (s : State) : State :=
  needDp (fun s =>
    beginAccess false s.argReg s.port.argValue .dpWrite (rawCacheEffects s.argReg true s.port.argValue s)) s

/-- DP_WRITE (R162). -/
def execDpWrite (s : State) : Host.Outcome State Fault Refusal := onIdle beginDpWrite s

/-- DP_ERROR begins: CTRL/STAT is read (R163); the caches are not touched (R165). -/
def beginDpError (s : State) : State := needDp (beginAccess true Config.dpCtrlStat 0 .errorRead) s

/-- DP_ERROR (R163). -/
def execDpError (s : State) : Host.Outcome State Fault Refusal := onIdle beginDpError s

/-- DP_ABORT begins: the bits are sent as given (R164). -/
def beginDpAbort (s : State) : State :=
  needDp (fun s =>
    beginAccess false Config.dpAbort s.port.argValue .dpAbort
      (rawCacheEffects Config.dpAbort true s.port.argValue s)) s

/-- DP_ABORT (R164). -/
def execDpAbort (s : State) : Host.Outcome State Fault Refusal := onIdle beginDpAbort s

end Sys2Proof.Machine
end

