-- ==== Sys2Proof/Machine/ApCommands.lean ====
section
/-! DEFINITION. The Access Port register window (42_ap_regs.md): AP_READ, AP_WRITE, CACHE_INVALIDATE. -/

namespace Sys2Proof.Machine

/-- The entry checks of the commands that name an AP: `NO_DP`, then `BAD_AP` (R181, R186, R267). -/
def needAp (f : State → State) (s : State) : State :=
  needDp (fun s => if s.apPresent s.port.argAp then f s else setStatus .badAp s) s

/-- AP_READ begins; on a latched fault it returns 0 with no tap call (R181, R185). -/
def beginApRead (s : State) : State :=
  needAp (fun s => if s.dp.fault then setStatus .ok (setRspValue 0 s) else apAccess .read s) s

/-- AP_READ (R181). -/
def execApRead (s : State) : Host.Outcome State Fault Refusal := onIdle beginApRead s

/-- AP_WRITE begins; on a latched fault it does nothing (R182, R185). -/
def beginApWrite (s : State) : State :=
  needAp (fun s => if s.dp.fault then setStatus .ok s else apAccess .write s) s

/-- AP_WRITE (R182). -/
def execApWrite (s : State) : Host.Outcome State Fault Refusal := onIdle beginApWrite s

/-- CACHE_INVALIDATE: no tap call, legal with no DebugPort (R184). -/
def cacheInvalidate (s : State) : State := setStatus .ok (invalidateAll s)

/-- CACHE_INVALIDATE (R184). -/
def execCacheInvalidate (s : State) : Host.Outcome State Fault Refusal := onIdle cacheInvalidate s

end Sys2Proof.Machine
end

