-- ==== Sys2Proof/Machine/MemCommands.lean ====
section
/-! DEFINITION. The memory engine's commands (43_mem_engine.md): MEM_READ, MEM_WRITE. -/

namespace Sys2Proof.Machine

/-- The window of a transfer of `len` bytes at `addr` (R202). -/
def windowOf (addr len : Word) : Window :=
  let sz := accessSize addr len
  ⟨sz, Config.incSingle, addr, 0, len >>> sz.toNat⟩

/-- The entry checks of R201, in order, then the window and the set-up accesses (R202, R204). -/
def beginMem (rd : Bool) (s : State) : State :=
  needAp (fun s =>
    if s.port.argLen = 0 then setStatus .ok (setRspCount 0 s)
    else if s.dp.fault then setStatus .memoryFault (setRspCount 0 s)
    else memBegin rd (s.setWin (windowOf s.port.argAddr s.port.argLen))) s

/-- MEM_READ (R200). -/
def execMemRead (s : State) : Host.Outcome State Fault Refusal := onIdle (beginMem true) s

/-- MEM_WRITE (R200). -/
def execMemWrite (s : State) : Host.Outcome State Fault Refusal := onIdle (beginMem false) s

end Sys2Proof.Machine
end

