-- ==== Sys2Proof/Machine/Dispatch.lean ====
section
/-! DEFINITION. The dispatch: one direct call of a meaning for each constructor of `Instr`. -/

namespace Sys2Proof.Machine

/-- The meaning of an instruction. -/
def exec (i : Instr) (s : State) : Host.Outcome State Fault Refusal :=
  match i with
  | .swdDpWr0 => Sys2Proof.Machine.execSwdDpWr0 s
  | .swdDpRd0 => Sys2Proof.Machine.execSwdDpRd0 s
  | .swdDpWr4 => Sys2Proof.Machine.execSwdDpWr4 s
  | .swdDpRd4 => Sys2Proof.Machine.execSwdDpRd4 s
  | .swdDpWr8 => Sys2Proof.Machine.execSwdDpWr8 s
  | .swdDpRd8 => Sys2Proof.Machine.execSwdDpRd8 s
  | .swdDpWrC => Sys2Proof.Machine.execSwdDpWrC s
  | .swdDpRdC => Sys2Proof.Machine.execSwdDpRdC s
  | .swdApWr0 => Sys2Proof.Machine.execSwdApWr0 s
  | .swdApRd0 => Sys2Proof.Machine.execSwdApRd0 s
  | .swdApWr4 => Sys2Proof.Machine.execSwdApWr4 s
  | .swdApRd4 => Sys2Proof.Machine.execSwdApRd4 s
  | .swdApWr8 => Sys2Proof.Machine.execSwdApWr8 s
  | .swdApRd8 => Sys2Proof.Machine.execSwdApRd8 s
  | .swdApWrC => Sys2Proof.Machine.execSwdApWrC s
  | .swdApRdC => Sys2Proof.Machine.execSwdApRdC s
  | .jtagDpWr0 data => Sys2Proof.Machine.execJtagDpWr0 data s
  | .jtagDpRd0 data => Sys2Proof.Machine.execJtagDpRd0 data s
  | .jtagDpWr4 data => Sys2Proof.Machine.execJtagDpWr4 data s
  | .jtagDpRd4 data => Sys2Proof.Machine.execJtagDpRd4 data s
  | .jtagDpWr8 data => Sys2Proof.Machine.execJtagDpWr8 data s
  | .jtagDpRd8 data => Sys2Proof.Machine.execJtagDpRd8 data s
  | .jtagDpWrC data => Sys2Proof.Machine.execJtagDpWrC data s
  | .jtagDpRdC data => Sys2Proof.Machine.execJtagDpRdC data s
  | .jtagApWr0 data => Sys2Proof.Machine.execJtagApWr0 data s
  | .jtagApRd0 data => Sys2Proof.Machine.execJtagApRd0 data s
  | .jtagApWr4 data => Sys2Proof.Machine.execJtagApWr4 data s
  | .jtagApRd4 data => Sys2Proof.Machine.execJtagApRd4 data s
  | .jtagApWr8 data => Sys2Proof.Machine.execJtagApWr8 data s
  | .jtagApRd8 data => Sys2Proof.Machine.execJtagApRd8 data s
  | .jtagApWrC data => Sys2Proof.Machine.execJtagApWrC data s
  | .jtagApRdC data => Sys2Proof.Machine.execJtagApRdC data s
  | .jtagIrDpacc => Sys2Proof.Machine.execJtagIrDpacc s
  | .jtagIrApacc => Sys2Proof.Machine.execJtagIrApacc s
  | .ackOk => Sys2Proof.Machine.execAckOk s
  | .ackWait => Sys2Proof.Machine.execAckWait s
  | .ackFault => Sys2Proof.Machine.execAckFault s
  | .ackInvalid0 => Sys2Proof.Machine.execAckInvalid0 s
  | .ackInvalid3 => Sys2Proof.Machine.execAckInvalid3 s
  | .ackInvalid5 => Sys2Proof.Machine.execAckInvalid5 s
  | .ackInvalid6 => Sys2Proof.Machine.execAckInvalid6 s
  | .ackInvalid7 => Sys2Proof.Machine.execAckInvalid7 s
  | .swdData data parity => Sys2Proof.Machine.execSwdData data parity s
  | .swdFlush => Sys2Proof.Machine.execSwdFlush s
  | .swdJtag2Swd => Sys2Proof.Machine.execSwdJtag2Swd s
  | .dpScan => Sys2Proof.Machine.execDpScan s
  | .dpAttachJtag => Sys2Proof.Machine.execDpAttachJtag s
  | .detach => Sys2Proof.Machine.execDetach s
  | .lowAccessRd => Sys2Proof.Machine.execLowAccessRd s
  | .lowAccessWr => Sys2Proof.Machine.execLowAccessWr s
  | .dpRead => Sys2Proof.Machine.execDpRead s
  | .dpWrite => Sys2Proof.Machine.execDpWrite s
  | .dpError => Sys2Proof.Machine.execDpError s
  | .dpAbort => Sys2Proof.Machine.execDpAbort s
  | .apScan => Sys2Proof.Machine.execApScan s
  | .apRead => Sys2Proof.Machine.execApRead s
  | .apWrite => Sys2Proof.Machine.execApWrite s
  | .memRead => Sys2Proof.Machine.execMemRead s
  | .memWrite => Sys2Proof.Machine.execMemWrite s
  | .cacheInvalidate => Sys2Proof.Machine.execCacheInvalidate s

end Sys2Proof.Machine
end

