-- ==== Sys2Proof/Machine/Placement.lean ====
section
/-! DEFINITION. Where a word must stand so that the very next step takes it (log 25). A host opcode is what the host
writes next; a link word needs the phase in which it is taken: an access in flight with the request's register, the
transport's answer that carries an acknowledge or a received data phase. -/

namespace Sys2Proof.Machine

/-- A register address with the given APnDP flag and `addr[3:2]`, bank 0. -/
def addressOf (ap : Bool) (a : BitVec 2) : BitVec 9 := BitVec.ofBool ap ++ 0#4 ++ a ++ 0#2

/-- An access of a LOW_ACCESS command stands at a phase on a link. -/
def placeAccess (v : Variant) (g : Stage) (f : Fsm) (x : Access) (s : State) : State :=
  (((((s.setDp { s.dp with valid := true, variant := v }).setAcc x).setCont .lowAccess).setStage g).setFsm f)

/-- A word of a format stands where the next step takes it. -/
def placeWord (f : Format) (w : BitVec 40) (s : State) : State :=
  match f with
  | .cmd => (clearPosition s).setHostIn (.command (w.setWidth 8) :: s.hostIn)
  | .swdReq =>
    placeAccess .swd .request .idle ⟨w.getLsbD 2, addressOf (w.getLsbD 1) (w.extractLsb' 3 2), 0, 0⟩ s
  | .jtagDr ap =>
    placeAccess .jtag .request .idle ⟨w.getLsbD 0, addressOf ap (w.extractLsb' 1 2), w.extractLsb' 3 32, 0⟩ s
  | .jtagIr =>
    placeAccess .jtag .ir .idle ⟨true, addressOf (decide (w = Config.irApacc.setWidth 40)) 0, 0, 0⟩ s
  | .ack =>
    (placeAccess .swd .ack .requestSent ⟨true, Config.dpCtrlStat, 0, 0⟩ s).setTapIn
      (⟨w.setWidth 35, true⟩ :: s.tapIn)
  | .swdData =>
    (placeAccess .swd .data .dataPhase ⟨true, Config.dpCtrlStat, 0, 0⟩ s).setTapIn
      (⟨(w.extractLsb' 0 32).setWidth 35, w.getLsbD 32 == evenParity (w.extractLsb' 0 32)⟩ :: s.tapIn)
  | .swdFlush => placeAccess .swd .flush .dataPhase ⟨true, Config.dpCtrlStat, 0, 0⟩ s
  | .lineReset => ((s.setAcc ⟨true, Config.dpIdcode, 0, 0⟩).setCont .scan).setStage .lineReset

/-- The table word `w` of `nbits` bits stands where the next step takes it; a word the table does not have is offered as
a host opcode. -/
def placeTableWord (nbits w : Nat) (s : State) : State :=
  match decodeTableWord nbits w with
  | some i => placeWord (encode i).fmt (encode i).word s
  | none => placeWord .cmd (BitVec.ofNat 40 (w % 256)) s

end Sys2Proof.Machine
end

