-- ==== Sys2Proof/Machine/Step.lean ====
section
/-! DEFINITION. One step of the machine, and where the host's question puts a word. -/

namespace Sys2Proof.Machine

/-- One step (log 5). While no command runs: the host's next act, a command being run as far as the answers at hand
carry it. While a command runs: its next link operation or internal move. With nothing to take, the engine waits. -/
def step (s : State) : Host.Outcome State Fault Refusal :=
  match fetch s with
  | .wait => .next s
  | .moved s' => .next s'
  | .word f w s' =>
    match decode f w with
    | .ok i => exec i s'
    | .error _ => rejectWord f s'

/-- The state in which the very next step runs the table word `w` of `nbits` bits (log 25). -/
def State.withFetchWord (s : State) (nbits w : Nat) : State := placeTableWord nbits w s

end Sys2Proof.Machine
end

