-- ==== Sys2Proof/Safety.lean ====
section
/-! DEFINITION. The terms claims are stated in: what an answer of the transport says, an access served OK, what a
completed access and a completed command leave, and the invariant of the machine. -/

namespace Sys2Proof

/-- A host command (R107); every other instruction is a link operation. -/
def Instr.isCommand (i : Instr) : Bool := (encode i).fmt == .cmd

end Sys2Proof

namespace Sys2Proof.Machine

/-! ### Answers -/

/-- The three bits `TAP.seq_in(3)` takes, or the low bits of what a JTAG scan shifts out (R93, R98). -/
def TapReply.ack (r : TapReply) : BitVec 3 := r.bits.extractLsb' 0 3

/-- The word `TAP.seq_in_par(32)` takes (R94). -/
def TapReply.word (r : TapReply) : Word := r.bits.setWidth 32

/-- Bits [34:3] of what a JTAG scan shifts out: the read data (R98). -/
def TapReply.scanData (r : TapReply) : Word := r.bits.extractLsb' 3 32

/-- The row of R93 an acknowledge stands for: its own pattern on SWD, what the configuration makes of it on JTAG (R99). -/
def TapReply.row (v : Variant) (c : Config) (r : TapReply) : BitVec 3 :=
  match v with
  | .swd => r.ack
  | .jtag => jtagAck c r.ack

/-- The answers of one attempt over JTAG: one scan, whose bits are `r`; with `JTAG_POSTED` the request's scan, whose bits
are dropped, and the collecting one, whose bits are `r` (R133, U11, log 21). -/
def scansGive (c : Config) (r : TapReply) (tap rest : List TapReply) : Prop :=
  if c.jtagPosted then ∃ dropped, tap = dropped :: r :: rest else tap = r :: rest

/-- The transport's answers `tap` bring one acknowledge that stands for the row `code`, and leave `rest` (R93, R99). -/
def servesAck (v : Variant) (c : Config) (code : BitVec 3) (tap rest : List TapReply) : Prop :=
  match v with
  | .swd => ∃ r, tap = r :: rest ∧ r.row .swd c = code
  | .jtag => ∃ r, scansGive c r tap rest ∧ r.row .jtag c = code

/-- The transport's answers `tap` serve one access OK at the first attempt and leave `rest` (R132, R133, R134): on SWD
an acknowledge 0b001, and on a read a data word with good parity; on JTAG one attempt acknowledged OK. `val` is the value
the access returns: the word read, or 0 for a write (R144). -/
def servesOk (v : Variant) (c : Config) (rnw : Bool) (val : Word) (tap rest : List TapReply) : Prop :=
  match v, rnw with
  | .swd, true => ∃ a d, tap = a :: d :: rest ∧ a.ack = 0b001 ∧ d.parityOk = true ∧ d.word = val
  | .jtag, true => ∃ r, scansGive c r tap rest ∧ r.row .jtag c = 0b001 ∧ r.scanData = val
  | .swd, false | .jtag, false => servesAck v c 0b001 tap rest ∧ val = 0

/-- The first acknowledge `tap` brings is a FAULT, and `rest` is left (R137). -/
def servesFault (v : Variant) (c : Config) (tap rest : List TapReply) : Prop := servesAck v c 0b100 tap rest

/-- `tap` brings `n` acknowledges WAIT, and leaves `rest` (R135, R146). -/
def servesWaits (v : Variant) (c : Config) : Nat → List TapReply → List TapReply → Prop
  | 0, tap, rest => tap = rest
  | n + 1, tap, rest => ∃ mid, servesAck v c 0b010 tap mid ∧ servesWaits v c n mid rest

/-! ### What one access leaves -/

/-- The calls before the first attempt of an access, in order (R132, R133). -/
def openingCalls (v : Variant) (addr : BitVec 9) : List TapCall :=
  match v with
  | .swd => [.nowMs]
  | .jtag => [.jtagIr (irCode addr), .nowMs]

/-- The calls of one attempt, in order: the request and its acknowledge; with `JTAG_POSTED` the acknowledge comes with a
further scan that reads RDBUFF, under DPACC (R132, R133, U11, log 21). -/
def attemptCalls (v : Variant) (c : Config) (rnw : Bool) (addr : BitVec 9) (wval : Word) : List TapCall :=
  match v with
  | .swd => [.seqOut ((requestByte (isAp addr) rnw (regBits addr)).setWidth 32) 8, .seqIn 3]
  | .jtag =>
    .jtagDr (jtagDrWord rnw (regBits addr) (if rnw then 0 else wval)) ::
      (if c.jtagPosted then (if isAp addr then [.jtagIr 0b1010] else []) ++ [.jtagDr 0x7] else [])

/-- The calls between an attempt answered WAIT and the next one, in order: the clock reading; with `JTAG_POSTED` the
instruction register of an AP-addressed access is loaded again (R135, log 21). -/
def retryCalls (v : Variant) (c : Config) (addr : BitVec 9) : List TapCall :=
  .nowMs :: (if v = .jtag ∧ c.jtagPosted ∧ isAp addr then [.jtagIr 0b1011] else [])

/-- The calls of an access that is answered at the first attempt, up to its acknowledge, in order (R96). -/
def requestCalls (v : Variant) (c : Config) (rnw : Bool) (addr : BitVec 9) (wval : Word) : List TapCall :=
  openingCalls v addr ++ attemptCalls v c rnw addr wval

/-- The calls after an acknowledge OK: data phase and flush on SWD, none on JTAG (R96, R132, R133). -/
def dataCalls (v : Variant) (rnw : Bool) (wval : Word) : List TapCall :=
  match v with
  | .swd => [if rnw then .seqInPar 32 else .seqOutPar wval 32, .seqOut 0 8]
  | .jtag => []

/-- The state after calls (in order) and moves of `fsm` (in order, ending in Idle), with these answers left; the
snapshot `t0` is undefined from here on (R26). -/
def State.afterCalls (s : State) (calls : List TapCall) (moves : List Fsm) (tap : List TapReply) (clk : List Word) :
    State :=
  { s with trace := calls.reverse ++ s.trace, fsmLog := moves.reverse ++ s.fsmLog, fsm := .idle, tapIn := tap,
           clkIn := clk, t0 := Config.freeT0 s.nonce, nonce := s.nonce + 1 }

/-- The state after an access that was served OK at the first attempt on the link of `dp.variant`. -/
def State.afterOk (s : State) (rnw : Bool) (addr : BitVec 9) (wval : Word) (tap : List TapReply) (clk : List Word) :
    State :=
  s.afterCalls (requestCalls s.dp.variant s.cfg rnw addr wval ++ dataCalls s.dp.variant rnw wval)
    [.requestSent, .dataPhase, .idle] tap clk

/-- The state after an access answered FAULT: the latch is set, no data phase, no flush (R137). -/
def State.afterFault (s : State) (rnw : Bool) (addr : BitVec 9) (wval : Word) (tap : List TapReply)
    (clk : List Word) : State :=
  latchFault (s.afterCalls (requestCalls s.dp.variant s.cfg rnw addr wval) [.requestSent, .faulted, .idle] tap clk)

/-- SELECT names AP `i` and bank `b` in `u`: the cache holds the pair and `u` is `s`, or the SELECT write has been served
OK (R180). -/
def State.selects (s : State) (i : Byte) (b : BitVec 4) (u : State) : Prop :=
  s.dp.selCache = some (i, b) ∧ u = s ∨
  s.dp.selCache ≠ some (i, b) ∧ ∃ now clk mid, s.clkIn = now :: clk ∧
    servesOk s.dp.variant s.cfg false 0 s.tapIn mid ∧
    u = setSelCache (some (i, b)) (s.afterOk false 0x008 (selectValue i b) mid clk)

/-- The AccessPort records once the DebugPort is gone: none present, no cache, every IDR free (R50, R252, log 13). -/
def apsGone (nonce : Nat) : Vector AccessPort Config.apselCount :=
  ApTable.tabulate (fun i => ⟨false, Config.freeIdr nonce i, none, none⟩)

/-- The state in which a command has completed with a status. -/
def State.completed (s : State) (r : Status) : State :=
  { s with port := { s.port with rspStatus := r.code }, stage := .idle, acc := Access.none, cont := .none }

/-- What a raise leaves (R268), field by field: the error state passed through, every cache dropped, the status, and for
a memory command the bytes confirmed; `t0`, and for a memory command `win`, are undefined from here on (R24, R26). -/
def State.afterRaise (s : State) (c : Condition) : State :=
  { s with
    fsm := .idle
    fsmLog := .idle :: c.fsm :: s.fsmLog
    dp := { s.dp with selCache := none }
    aps := ApTable.map (fun p => { p with cswCache := none, tarCache := none }) s.aps
    t0 := Config.freeT0 s.nonce
    port := { s.port with
      rspStatus := c.status.code
      rspCount := if s.cont.isMem then s.win.done * 2 ^ s.win.sz.toNat else s.port.rspCount }
    win := if s.cont.isMem then
        ⟨Config.freeWinSz (s.nonce + 1), Config.freeWinInc (s.nonce + 1), Config.freeWinA (s.nonce + 1),
          Config.freeWinDone (s.nonce + 1), Config.freeWinUnits (s.nonce + 1)⟩
      else s.win
    nonce := if s.cont.isMem then s.nonce + 2 else s.nonce + 1
    stage := .idle
    acc := Access.none
    cont := .none }

/-- The calls that bring an acknowledge, in order: `seq_in(3)` on SWD; on JTAG it comes with the scan (R132, R133). -/
def State.ackCalls (s : State) : List TapCall :=
  match s.wire with
  | .swd => [.seqIn 3]
  | .jtag => []

/-- The calls that follow an acknowledge other than OK, in order: none (R137, R138), or the flush of `FLUSH_ON_NON_OK` on
SWD, whose place right after the acknowledge is the model's choice (R95, D8, log 20). -/
def State.nonOkCalls (s : State) : List TapCall :=
  if s.cfg.flushOnNonOk ∧ s.wire = .swd then [.seqOut 0 8] else []

/-! ### The tables of 30_encoding.md, as written there -/

/-- A row of R92: APnDP, RnW, `addr[3:2]`, the request byte, the mnemonic's instruction. -/
structure RequestRow where
  ap : Bool
  rnw : Bool
  a : BitVec 2
  byte : Byte
  instr : Instr
deriving DecidableEq, Repr

/-- The sixteen rows of R92. -/
def requestTable : List RequestRow :=
  [⟨false, false, 0, 0x81, .swdDpWr0⟩, ⟨false, true, 0, 0xA5, .swdDpRd0⟩,
   ⟨false, false, 1, 0xA9, .swdDpWr4⟩, ⟨false, true, 1, 0x8D, .swdDpRd4⟩,
   ⟨false, false, 2, 0xB1, .swdDpWr8⟩, ⟨false, true, 2, 0x95, .swdDpRd8⟩,
   ⟨false, false, 3, 0x99, .swdDpWrC⟩, ⟨false, true, 3, 0xBD, .swdDpRdC⟩,
   ⟨true, false, 0, 0xA3, .swdApWr0⟩, ⟨true, true, 0, 0x87, .swdApRd0⟩,
   ⟨true, false, 1, 0x8B, .swdApWr4⟩, ⟨true, true, 1, 0xAF, .swdApRd4⟩,
   ⟨true, false, 2, 0x93, .swdApWr8⟩, ⟨true, true, 2, 0xB7, .swdApRd8⟩,
   ⟨true, false, 3, 0xBB, .swdApWrC⟩, ⟨true, true, 3, 0x9F, .swdApRdC⟩]

/-- The sixteen DR scans of R98 with write data `d`: the register under the IR, DR bits [2:0], the instruction. -/
def scanTable (d : Word) : List (Bool × BitVec 3 × Instr) :=
  [(false, 0b000, .jtagDpWr0 d), (false, 0b001, .jtagDpRd0 d), (false, 0b010, .jtagDpWr4 d),
   (false, 0b011, .jtagDpRd4 d), (false, 0b100, .jtagDpWr8 d), (false, 0b101, .jtagDpRd8 d),
   (false, 0b110, .jtagDpWrC d), (false, 0b111, .jtagDpRdC d),
   (true, 0b000, .jtagApWr0 d), (true, 0b001, .jtagApRd0 d), (true, 0b010, .jtagApWr4 d),
   (true, 0b011, .jtagApRd4 d), (true, 0b100, .jtagApWr8 d), (true, 0b101, .jtagApRd8 d),
   (true, 0b110, .jtagApWrC d), (true, 0b111, .jtagApRdC d)]

/-- The fifteen opcodes of R107. -/
def opcodes : List Byte :=
  [0x01, 0x02, 0x03, 0x10, 0x11, 0x12, 0x13, 0x14, 0x15, 0x20, 0x21, 0x22, 0x23, 0x24, 0x2F]

/-- The commands that need a DebugPort (R265): all but DP_SCAN, DP_ATTACH_JTAG, DETACH, CACHE_INVALIDATE. -/
def commandsNeedingDp : List Instr :=
  [.lowAccessRd, .lowAccessWr, .dpRead, .dpWrite, .dpError, .dpAbort, .apScan, .apRead, .apWrite, .memRead, .memWrite]

/-! ### The accesses of a command, as a list -/

/-- One access of a command: direction, register, write data; `keeps` where the command keeps the value returned. -/
structure PlanItem where
  rnw : Bool
  addr : BitVec 9
  wval : Word
  keeps : Bool
deriving DecidableEq, Repr

/-- The transport's answers `tap` serve every access of the list OK at the first attempt, the `i`-th returning the `i`-th
value, and leave `rest`. -/
def servesPlan (v : Variant) (c : Config) : List PlanItem → List Word → List TapReply → List TapReply → Prop
  | [], [], tap, rest => tap = rest
  | x :: xs, w :: ws, tap, rest => ∃ mid, servesOk v c x.rnw w tap mid ∧ servesPlan v c xs ws mid rest
  | [], _ :: _, _, _ => False
  | _ :: _, [], _, _ => False

/-- The calls of the accesses of a list, in order. -/
def planCalls (v : Variant) (c : Config) (p : List PlanItem) : List TapCall :=
  p.flatMap (fun x => requestCalls v c x.rnw x.addr x.wval ++ dataCalls v x.rnw x.wval)

/-- The moves of `fsm` over the accesses of a list, in order. -/
def planMoves (p : List PlanItem) : List Fsm := p.flatMap (fun _ => [.requestSent, .dataPhase, .idle])

/-- The values a command keeps, in order. -/
def keptValues (p : List PlanItem) (vals : List Word) : List Word :=
  ((p.zip vals).filter (fun e => e.1.keeps)).map Prod.snd

/-- SELECT of AP `i`, bank `b`, where the cache does not hold the pair (R180). -/
def selectPlan (cache : Option (Byte × BitVec 4)) (i : Byte) (b : BitVec 4) : List PlanItem :=
  if cache = some (i, b) then [] else [⟨false, Config.dpSelect, selectValue i b, false⟩]

/-- The data loop of MEM_READ from address `a` over `n` units (R205, R206, R207, R211): at the begin of a chunk TAR unless
it is right, and the priming read; then for each unit DRW, or RDBUFF for the last unit of the chunk. -/
def readPlan (c : Config) (sz : BitVec 2) : Bool → Bool → Word → Nat → List PlanItem
  | _, _, _, 0 => []
  | begins, tarRight, a, n + 1 =>
    (if begins then
      (if tarRight then [] else [⟨false, Config.apTar, a, false⟩]) ++ [⟨true, Config.apDrw, 0, false⟩]
     else []) ++
    (if n = 0 ∨ blockOffset c (a + unitBytes sz) = 0 then
      ⟨true, Config.dpRdbuff, 0, true⟩ :: readPlan c sz true false (a + unitBytes sz) n
     else ⟨true, Config.apDrw, 0, true⟩ :: readPlan c sz false false (a + unitBytes sz) n)

/-- The data loop of MEM_WRITE from address `a`, unit number `d`, over `n` units (R205, R206, R209, R211). -/
def writePlan (c : Config) (hbuf : List Host.Cell) (sz : BitVec 2) : Bool → Bool → Word → Nat → Nat → List PlanItem
  | _, _, _, _, 0 => []
  | begins, tarRight, a, d, n + 1 =>
    (if begins ∧ ¬ tarRight then [⟨false, Config.apTar, a, false⟩] else []) ++
    ⟨false, Config.apDrw, placeLane sz a (unitFromBytes hbuf (d * unitSize sz) (unitSize sz)), true⟩ ::
      writePlan c hbuf sz (blockOffset c (a + unitBytes sz) = 0) false (a + unitBytes sz) (d + 1) n

/-- All accesses of the memory command that stands at the port (R204 to R211, R218). -/
def memPlan (rd : Bool) (s : State) : List PlanItem :=
  let sz := accessSize s.port.argAddr s.port.argLen
  let n := s.port.argLen.toNat / unitSize sz
  let tarRight : Bool := s.tarCache s.port.argAp = some s.port.argAddr
  selectPlan s.dp.selCache s.port.argAp 0 ++
  (if cswFits sz (s.cswCache s.port.argAp) then []
   else [⟨false, Config.apCsw, cswValue s.cfg s.port.argAp sz, false⟩]) ++
  (if rd then readPlan s.cfg sz true tarRight s.port.argAddr n
   else writePlan s.cfg s.hbuf sz true tarRight s.port.argAddr 0 n)

/-- The AccessPort record after a memory command that ended OK: CSW as it was or as written, TAR known inside a block
(R204, R211). -/
def memApAfter (s : State) (p : AccessPort) : AccessPort :=
  let sz := accessSize s.port.argAddr s.port.argLen
  let e := s.port.argAddr + s.port.argLen
  { p with
    cswCache := if cswFits sz (s.cswCache s.port.argAp) then p.cswCache else some (cswValue s.cfg s.port.argAp sz)
    tarCache := if blockOffset s.cfg e ≠ 0 then some e else none }

/-- The state after the accesses of a nonempty list served OK, and the end of a memory command with status OK (R206):
every field but `hbuf`. -/
def memStateAfter (rd : Bool) (s : State) (hbuf : List Host.Cell) (tap : List TapReply) (clk : List Word) : State :=
  let p := memPlan rd s
  let m := s.nonce + p.length
  { s with
    trace := (planCalls s.dp.variant s.cfg p).reverse ++ s.trace
    fsmLog := (planMoves p).reverse ++ s.fsmLog
    fsm := .idle
    tapIn := tap
    clkIn := clk
    t0 := Config.freeT0 (m - 1)
    win := ⟨Config.freeWinSz m, Config.freeWinInc m, Config.freeWinA m, Config.freeWinDone m, Config.freeWinUnits m⟩
    nonce := m + 1
    port := { s.port with rspStatus := 0, rspCount := s.port.argLen }
    dp := { s.dp with selCache := some (s.port.argAp, 0) }
    aps := ApTable.change s.port.argAp (memApAfter s) s.aps
    hbuf := hbuf
    stage := .idle
    acc := Access.none
    cont := .none }

/-- The accesses of AP_SCAN over `m` candidates (R248): SELECT of bank 0xF unless cached, IDR, RDBUFF, for each. Only
candidate 0 can find its pair cached. -/
def scanPlan (cache : Option (Byte × BitVec 4)) (m : Nat) : List PlanItem :=
  (List.range m).flatMap (fun i =>
    selectPlan (if i = 0 then cache else none) (BitVec.ofNat 8 i) 0xF ++
      [⟨true, Config.apIdr, 0, false⟩, ⟨true, Config.dpRdbuff, 0, true⟩])

/-- With these IDR values AP_SCAN reads exactly the candidates of the list (R248, R250): all 256, or with the policy of
stopping up to and with the first zero. -/
def scanEnds (stop : Bool) (idrs : List Word) : Prop :=
  idrs.length = 256 ∧ (stop = true → ∀ x ∈ idrs.dropLast, x ≠ 0) ∨
  stop = true ∧ ∃ found, idrs = found ++ [0] ∧ found.length < 256 ∧ ∀ x ∈ found, x ≠ 0

/-- The AccessPort records AP_SCAN leaves: of the APs found with their IDR, of every other select with the IDR it had;
no caches (R248). -/
def apsAfterScan (s : State) (found : List (Byte × Word)) : Vector AccessPort Config.apselCount :=
  ApTable.tabulate (fun i =>
    match found.find? (fun e => e.1 == i) with
    | some e => ⟨true, e.2, none, none⟩
    | none => ⟨false, (s.ap i).idr, none, none⟩)

/-- The APs found: select and IDR of each candidate whose IDR is not zero, ascending (R248, R249). -/
def apsFound (idrs : List Word) : List (Byte × Word) :=
  (idrs.zipIdx.filter (fun e => e.1 != 0)).map (fun e => (BitVec.ofNat 8 e.2, e.1))

/-- The result list of AP_SCAN (R251): five bytes for each AP. -/
def scanBytes (found : List (Byte × Word)) : List Byte :=
  found.flatMap (fun e => [e.1, e.2.extractLsb' 0 8, e.2.extractLsb' 8 8, e.2.extractLsb' 16 8, e.2.extractLsb' 24 8])

/-! ### Retries -/

/-- The calls of DP_SCAN up to the acknowledge, in order, with `n` ones in each run (R105, R240). -/
def scanCalls (n : Nat) : List TapCall :=
  [.init] ++ List.replicate n (.bitOut true) ++ [.seqOut 0xE79E 16] ++ List.replicate n (.bitOut true) ++
    [.seqOut 0x0000 16, .seqOut 0xA5 8, .seqIn 3]

/-! ### The invariant -/

/-- The transitions of R141, and no other. -/
def fsmEdge : Fsm → Fsm → Bool
  | .idle, .requestSent => true
  | .idle, .faulted => true
  | .requestSent, .dataPhase => true
  | .requestSent, .retrying => true
  | .requestSent, .faulted => true
  | .requestSent, .protocolError => true
  | .retrying, .requestSent => true
  | .retrying, .timeoutError => true
  | .dataPhase, .idle => true
  | .dataPhase, .protocolError => true
  | .faulted, .idle => true
  | .protocolError, .idle => true
  | .timeoutError, .idle => true
  | .idle, .idle | .idle, .dataPhase | .idle, .retrying | .idle, .protocolError | .idle, .timeoutError => false
  | .requestSent, .idle | .requestSent, .requestSent | .requestSent, .timeoutError => false
  | .retrying, .idle | .retrying, .dataPhase | .retrying, .retrying | .retrying, .faulted => false
  | .retrying, .protocolError => false
  | .dataPhase, .requestSent | .dataPhase, .dataPhase | .dataPhase, .retrying | .dataPhase, .faulted => false
  | .dataPhase, .timeoutError => false
  | .faulted, .requestSent | .faulted, .dataPhase | .faulted, .retrying | .faulted, .faulted => false
  | .faulted, .protocolError | .faulted, .timeoutError => false
  | .protocolError, .requestSent | .protocolError, .dataPhase | .protocolError, .retrying => false
  | .protocolError, .faulted | .protocolError, .protocolError | .protocolError, .timeoutError => false
  | .timeoutError, .requestSent | .timeoutError, .dataPhase | .timeoutError, .retrying => false
  | .timeoutError, .faulted | .timeoutError, .protocolError | .timeoutError, .timeoutError => false

/-- The values `fsm` has taken, latest first, make a path of R141 from Idle. -/
def fsmPath : List Fsm → Bool
  | [] => true
  | [f] => fsmEdge .idle f
  | f :: g :: l => fsmEdge g f && fsmPath (g :: l)

/-- The value `fsm` has by the log: the latest, Idle at the start. -/
def lastFsm : List Fsm → Fsm
  | [] => .idle
  | f :: _ => f

/-- The value `fsm` has at a phase of a `low_access` (R25, R141). -/
def fsmAt (g : Stage) (f : Fsm) : Prop :=
  match g with
  | .idle | .start | .ir | .clock | .lineReset => f = .idle
  | .request => f = .idle ∨ f = .retrying
  | .drain | .collectIr | .collect | .ack => f = .requestSent
  | .retryClock | .reloadIr => f = .retrying
  | .data | .flush => f = .dataPhase

/-- The phases of a running command fit the command and the link: the line reset belongs to DP_SCAN, the instruction
register and the collecting scan to JTAG, data phase and flush to SWD. -/
def phaseFits (s : State) : Prop :=
  match s.cont with
  | .none => s.stage = .idle
  | .scan => s.acc = { s.acc with rnw := true } ∧
      (s.stage = .lineReset ∨ s.stage = .request ∨ s.stage = .ack ∨ s.stage = .data ∨ s.stage = .flush)
  | .lowAccess | .dpReadFirst | .dpRead | .dpWrite | .dpAbort | .errorRead | .errorAbort _ | .ap _ _ | .mem _ _ =>
    s.stage ≠ .idle ∧ s.stage ≠ .lineReset ∧
      (s.stage = .ir ∨ s.stage = .reloadIr ∨ s.stage = .drain ∨ s.stage = .collectIr ∨ s.stage = .collect →
        s.dp.variant = .jtag) ∧
      (s.stage = .data ∨ s.stage = .flush → s.dp.variant = .swd)

/-- How many units the running chunk still has to move. -/
def MemPos.left : MemPos → Nat
  | .select | .csw | .abort => 0
  | .tar k | .prime k | .unit k => k

/-- A chunk is under way at this position. -/
def MemPos.inChunk : MemPos → Bool
  | .select | .csw | .abort => false
  | .tar _ | .prime _ | .unit _ => true

/-- The window of a running transfer: a legal size, single increment, an address aligned to the unit, and no more units
moved than there are (R24, R29, R68, R206). -/
def windowFits (s : State) : Prop :=
  match s.cont with
  | .mem _ p =>
    s.win.sz ≠ 3 ∧ s.win.inc = 1 ∧ s.win.a.toNat % unitSize s.win.sz = 0 ∧
      s.win.done.toNat + p.left ≤ s.win.units.toNat ∧ (p.inChunk → 1 ≤ p.left) ∧
      s.port.argLen.toNat = s.win.units.toNat * unitSize s.win.sz
  | .none | .scan | .lowAccess | .dpReadFirst | .dpRead | .dpWrite | .dpAbort => True
  | .errorRead | .errorAbort _ | .ap _ _ => True

/-- The command names an AP in ARG_AP: AP_READ, AP_WRITE, MEM_READ, MEM_WRITE (R186). -/
def Cont.namesAp : Cont → Bool
  | .ap .read _ | .ap .write _ | .mem _ _ => true
  | .ap (.scan _ _) _ | .none | .scan | .lowAccess | .dpReadFirst | .dpRead | .dpWrite | .dpAbort => false
  | .errorRead | .errorAbort _ => false

/-- The invariant of the machine. -/
structure State.Inv (s : State) : Prop where
  /-- HBUF keeps its canonical form. -/
  hbufCanonical : Memory.wf s.hbuf = true
  /-- an AccessPort that is not present has no cache (R22, R50) -/
  absentNoCache : ∀ i, s.apPresent i = false → s.cswCache i = none ∧ s.tarCache i = none
  /-- with no DebugPort there is no fault, no SELECT cache and no AccessPort (R50) -/
  nothingWithoutDp : s.dp.valid = false → s.dp.fault = false ∧ s.dp.selCache = none ∧ ∀ i, s.apPresent i = false
  /-- the AP that a command under way names is present (R186, R201) -/
  commandHasAp : s.cont.namesAp = true → s.apPresent s.port.argAp = true
  /-- a command other than DP_SCAN that is under way has a DebugPort (R265); DP_SCAN has destroyed it (R240) -/
  commandHasDp : s.stage ≠ .idle → (s.dp.valid = true ↔ s.cont ≠ .scan)
  /-- the phase fits the command -/
  phase : phaseFits s
  /-- "It is `Idle` whenever no `low_access` is running" (R25), and at each phase what R141 says; DP_SCAN's inline read
  is no `low_access` -/
  fsmFits : if s.cont = .scan then s.fsm = .idle else fsmAt s.stage s.fsm
  /-- `fsm` has moved along R141 only -/
  fsmMoves : fsmPath s.fsmLog = true ∧ s.fsm = lastFsm s.fsmLog
  /-- the window of a running transfer -/
  window : windowFits s

end Sys2Proof.Machine
end

