-- ==== Sys2Proof/Certificates/Slice0/Obligations.lean ====
section
/-! DEFINITION. The statements for the provers. Each docstring names the rules it formalises. -/

section Statements
open Sys2Proof Sys2Proof.Machine

/-! ### Encoding (30_encoding.md) -/

/-- R90, R93, R94, R95, R97, R98, R105, R107: decode of encode is the identity on well-formed instructions. -/
def Obligations.DecodeOfEncode : Prop :=
  ∀ i : Instr, i.wellFormed = true → decodeBytes (encode i).fmt (encode i).bytes = .ok i

/-- R92, R93, R95, R97, R98, R105, R107, R109: what the decoder accepts is well formed and is the encoder's own word; no
two words of a format are one instruction, and no bit is dropped. -/
def Obligations.EncodeOfDecode : Prop :=
  ∀ (f : Format) (bs : List Byte) (i : Instr), decodeBytes f bs = .ok i →
    i.wellFormed = true ∧ (encode i).fmt = f ∧ (encode i).bytes = bs

/-- R91 (with the bits of R90): every bit of the request byte, and the parity even over the five bits. -/
def Obligations.RequestByteBits : Prop :=
  (∀ (ap rnw : Bool) (a : BitVec 2),
    let b := requestByte ap rnw a
    b.getLsbD 0 = true ∧ b.getLsbD 1 = ap ∧ b.getLsbD 2 = rnw ∧ b.getLsbD 3 = a.getLsbD 0 ∧
    b.getLsbD 4 = a.getLsbD 1 ∧ b.getLsbD 5 = (ap ^^ rnw ^^ a.getLsbD 0 ^^ a.getLsbD 1) ∧ b.getLsbD 6 = false ∧
    b.getLsbD 7 = true ∧
    (b.getLsbD 1 ^^ b.getLsbD 2 ^^ b.getLsbD 3 ^^ b.getLsbD 4 ^^ b.getLsbD 5) = false) ∧
  requestByte false true 0 = 0xA5

/-- R92, R93, R94, R95, R97, R98, R105, R107: a written-out word of each format decodes to its instruction. -/
def Obligations.WrittenWordsDecode : Prop :=
  decodeBytes .swdReq [0xA5] = .ok .swdDpRd0 ∧
  decodeBytes .swdReq [0xBB] = .ok .swdApWrC ∧
  decodeBytes .ack [0b100] = .ok .ackFault ∧
  decodeBytes .swdData [0x40, 0x00, 0x00, 0xF0, 0x01] = .ok (.swdData 0xF0000040 true) ∧
  decodeBytes .swdFlush [0x00] = .ok .swdFlush ∧
  decodeBytes .jtagIr [0b1011] = .ok .jtagIrApacc ∧
  decodeBytes (.jtagDr false) [0x84, 0x07, 0x00, 0x08, 0x00] = .ok (.jtagDpWr8 0x010000F0) ∧
  decodeBytes .lineReset [0x9E, 0xE7] = .ok .swdJtag2Swd ∧
  decodeBytes .cmd [0x23] = .ok .memRead

/-- R107, R108 (a): exactly the fifteen opcodes are commands. -/
def Obligations.OpcodesDefined : Prop :=
  ∀ op : Byte, (∃ i, decodeBytes .cmd [op] = .ok i) ↔ op ∈ opcodes

/-! ### Composed values -/

/-- R100: SELECT has APSEL in bits [31:24], the bank in bits [7:4], all other bits zero. R101: CSW has Size in bits [2:0],
AddrInc = single in bits [5:4], bit 3 and bits [31:6] from `CSW_BASE`. R204: a cached CSW fits exactly if its Size and
AddrInc are those, whatever its other bits. R103: the register addresses. That `CSW_BASE` is a list of which the first
entry for an AP counts, 0 for an AP not listed, is the model's form of the parameter (log 7). -/
def Obligations.SelectAndCswValues : Prop :=
  (∀ (i : Byte) (bank : BitVec 4),
    (selectValue i bank).extractLsb' 24 8 = i ∧ (selectValue i bank).extractLsb' 4 4 = bank ∧
    (selectValue i bank).extractLsb' 8 16 = 0 ∧ (selectValue i bank).extractLsb' 0 4 = 0) ∧
  (∀ (c : Config) (i : Byte) (sz : BitVec 2),
    (cswValue c i sz).extractLsb' 0 3 = sz.setWidth 3 ∧ (cswValue c i sz).extractLsb' 4 2 = 0b01 ∧
    (cswValue c i sz).getLsbD 3 = (cswBaseOf c i).getLsbD 3 ∧
    (cswValue c i sz).extractLsb' 6 26 = (cswBaseOf c i).extractLsb' 6 26) ∧
  (∀ (c : Config) (i : Byte), (∀ e ∈ c.cswBase, e.1 ≠ i) → cswBaseOf c i = 0) ∧
  (∀ (c : Config) (i : Byte) (v : Word) (l l' : List (Byte × Word)),
    c.cswBase = l ++ (i, v) :: l' → (∀ e ∈ l, e.1 ≠ i) → cswBaseOf c i = v) ∧
  (∀ sz : BitVec 2, cswFits sz none = false) ∧
  (∀ (sz : BitVec 2) (v : Word),
    cswFits sz (some v) = true ↔ v.extractLsb' 0 3 = sz.setWidth 3 ∧ v.extractLsb' 4 2 = 0b01) ∧
  Config.dpIdcode = 0x000 ∧ Config.dpAbort = 0x000 ∧ Config.dpCtrlStat = 0x004 ∧ Config.dpSelect = 0x008 ∧
  Config.dpRdbuff = 0x00C ∧ Config.apCsw = 0x100 ∧ Config.apTar = 0x104 ∧ Config.apDrw = 0x10C ∧
  Config.apBase = 0x1F8 ∧ Config.apIdr = 0x1FC

/-- R102: the map from the sticky bits to the clear bits, and no other bit. -/
def Obligations.AbortClearMap : Prop :=
  ∀ err : Word,
    (clearBits err).getLsbD 4 = err.getLsbD 1 ∧ (clearBits err).getLsbD 1 = err.getLsbD 4 ∧
    (clearBits err).getLsbD 2 = err.getLsbD 5 ∧ (clearBits err).getLsbD 3 = err.getLsbD 7 ∧
    (clearBits err).getLsbD 0 = false ∧ (clearBits err).extractLsb' 5 27 = 0 ∧
    Config.dapAbort = 0x01 ∧ Config.stkCmpClr = 0x02 ∧ Config.stkErrClr = 0x04 ∧ Config.wdErrClr = 0x08 ∧
    Config.orunErrClr = 0x10

/-- R203: word where both are multiples of 4, halfword where both are multiples of 2, byte otherwise; `2^sz` divides
both, so the units cover the range exactly. R202: the unit size `u = 2^sz`, as a number and as a word. -/
def Obligations.AccessSizeDivides : Prop :=
  ∀ addr len : Word,
    accessSize addr len =
      (if addr.toNat % 4 = 0 ∧ len.toNat % 4 = 0 then 2
       else if addr.toNat % 2 = 0 ∧ len.toNat % 2 = 0 then 1 else 0) ∧
    addr.toNat % 2 ^ (accessSize addr len).toNat = 0 ∧ len.toNat % 2 ^ (accessSize addr len).toNat = 0 ∧
    (len >>> (accessSize addr len).toNat).toNat * 2 ^ (accessSize addr len).toNat = len.toNat ∧
    ∀ sz : BitVec 2, unitSize sz = 2 ^ sz.toNat ∧ (unitBytes sz).toNat = 2 ^ sz.toNat

/-- R206: a chunk of a window with units left and an aligned address holds at least one unit, no more than remain, and
ends at or before the next auto-increment boundary; it ends before the boundary only if nothing remains. The boundary is
that of `TAR_WRAP_BITS`, 1 KiB by default, whatever its value (U18); that the values are 2 to 32 is the model's choice
(log 30). -/
def Obligations.ChunkStaysInBlock : Prop :=
  2 ^ Config.standard.tarWrapBits = 1024 ∧
  ∀ (c : Config) (w : Window), w.sz ≠ 3 → w.a.toNat % unitSize w.sz = 0 → w.done.toNat < w.units.toNat →
    let k := chunkUnits c w
    let block := 2 ^ c.tarWrapBits
    blockOffset c w.a = w.a.toNat % block ∧
    1 ≤ k ∧ k ≤ w.units.toNat - w.done.toNat ∧
    w.a.toNat % block + k * unitSize w.sz ≤ block ∧
    (k = w.units.toNat - w.done.toNat ∨ w.a.toNat % block + k * unitSize w.sz = block)

/-- R66: a byte lies in bits `[8*a[1:0]+7 : 8*a[1:0]]`, a halfword in `[16*a[1]+15 : 16*a[1]]`, a word in [31:0]; a write
leaves every other bit zero, a read ignores every other bit. -/
def Obligations.LanesOfDrw : Prop :=
  ∀ a v x : Word,
    takeLane 0 a v = (v.extractLsb' (8 * (a.toNat % 4)) 8).setWidth 32 ∧
    (a.toNat % 2 = 0 → takeLane 1 a v = (v.extractLsb' (16 * (a.toNat / 2 % 2)) 16).setWidth 32) ∧
    (a.toNat % 4 = 0 → takeLane 2 a v = v) ∧
    (x.toNat < 2 ^ 8 → ∀ i < 32, (placeLane 0 a x).getLsbD i =
      (if 8 * (a.toNat % 4) ≤ i ∧ i < 8 * (a.toNat % 4) + 8 then x.getLsbD (i - 8 * (a.toNat % 4)) else false)) ∧
    (a.toNat % 2 = 0 → x.toNat < 2 ^ 16 → ∀ i < 32, (placeLane 1 a x).getLsbD i =
      (if 16 * (a.toNat / 2 % 2) ≤ i ∧ i < 16 * (a.toNat / 2 % 2) + 16 then x.getLsbD (i - 16 * (a.toNat / 2 % 2))
       else false)) ∧
    (a.toNat % 4 = 0 → placeLane 2 a x = x)

/-- R67, R208, R210: the unit that `load_unit` sends is the unit whose bytes, least significant first, `store_unit` lays in
HBUF: reading the lane of a composed unit back stores the very bytes it came from. -/
def Obligations.UnitBytesRoundTrip : Prop :=
  ∀ (sz : BitVec 2) (a : Word) (m : List Host.Cell) (i : Nat), sz ≠ 3 → a.toNat % unitSize sz = 0 →
    unitToBytes (unitSize sz) (takeLane sz a (placeLane sz a (unitFromBytes m i (unitSize sz)))) =
      (List.range (unitSize sz)).map (fun j => Memory.read m (i + j))

/-! ### Cache effects -/

/-- R165: what the DP-level commands do to the caches before their access, whatever its outcome, and to nothing else; with
what a change of the AccessPort records, of all or of one, does to each of the 256 (R22). -/
def Obligations.RawCacheEffects : Prop :=
  (∀ (t : Vector AccessPort Config.apselCount) (f : AccessPort → AccessPort) (g : Byte → AccessPort) (i k : Byte),
    ApTable.get (ApTable.map f t) i = f (ApTable.get t i) ∧ ApTable.get (ApTable.tabulate g) i = g i ∧
    ApTable.get (ApTable.change k f t) i = (if i = k then f (ApTable.get t i) else ApTable.get t i)) ∧
  (∀ (s : State) (i : Byte), some (s.ap i) = s.aps[i.toNat]? ∧ s.apPresent i = (s.ap i).present ∧
    s.cswCache i = (s.ap i).cswCache ∧ s.tarCache i = (s.ap i).tarCache) ∧
  ∀ (addr : BitVec 9) (write : Bool) (value : Word) (s : State),
    rawCacheEffects addr write value s =
      if addr.getLsbD 8 = true then
        { s with aps := ApTable.map (fun p => { p with cswCache := none, tarCache := none }) s.aps }
      else if write = true ∧ addr.extractLsb' 2 2 = 0b10 then { s with dp := { s.dp with selCache := none } }
      else if write = true ∧ addr.extractLsb' 2 2 = 0b00 ∧ value.getLsbD 0 = true then
        { s with aps := ApTable.map (fun p => { p with cswCache := none, tarCache := none }) s.aps }
      else s

/-- R183: what AP_READ and AP_WRITE do to the caches of their AP, to no other AP and to nothing else. -/
def Obligations.ApCacheEffects : Prop :=
  ∀ (i reg : Byte) (write : Bool) (value : Word) (o : AccessOutcome) (s : State),
    let t := apCacheEffects i reg write value o s
    (∀ j, j ≠ i → t.ap j = s.ap j) ∧ t.ap i = (
      if o ≠ .ok then { s.ap i with cswCache := none, tarCache := none }
      else if reg.extractLsb' 2 6 = 0b000000 ∧ write = true then { s.ap i with cswCache := some value }
      else if reg.extractLsb' 2 6 = 0b000001 ∧ write = true then { s.ap i with tarCache := some value }
      else if reg.extractLsb' 2 6 = 0b000011 then { s.ap i with tarCache := none }
      else s.ap i) ∧
    t = { s with aps := t.aps }

/-! ### The step -/

/-- R27, R73, R77, R106: a step runs the instruction that the word standing next decodes to, in the format of the phase: a
host opcode while no command runs, a link word in each phase of a running command. Where the word comes from is the
model's choice: the queues of logs 1 and 2, the phases of log 6, the parity bit of log 17, the JTAG codes of log 18, the
collecting scan of log 21. R99, R133: on JTAG the three low bits of the scan are the acknowledge by the codes of the
configuration, whatever they are, tested WAIT, FAULT, OK; any other pattern is one of the invalid rows (log 18). R130,
R240: the link is that of `dp.variant`, in DP_SCAN SWD. -/
def Obligations.StepRunsDecoded : Prop :=
  (∀ s op rest i, s.stage = .idle → s.hostIn = .command op :: rest → decode .cmd (op.setWidth 40) = .ok i →
    step s = exec i { s with hostIn := rest, port := { s.port with cmd := op } }) ∧
  (∀ s i, s.stage = .request → s.wire = .swd → decode .swdReq (s.acc.request.setWidth 40) = .ok i →
    step s = exec i s) ∧
  (∀ s i, s.stage = .request → s.wire = .jtag →
    decode (.jtagDr (isAp s.acc.addr)) (s.acc.scanWord.setWidth 40) = .ok i → step s = exec i s) ∧
  (∀ s i, s.stage = .ir ∨ s.stage = .reloadIr → decode .jtagIr ((irCode s.acc.addr).setWidth 40) = .ok i →
    step s = exec i s) ∧
  (∀ s i, s.stage = .collectIr → decode .jtagIr 0b1010 = .ok i → step s = exec i s) ∧
  (∀ s i, s.stage = .collect → decode (.jtagDr false) 0x7 = .ok i → step s = exec i s) ∧
  (∀ s r rest i, s.stage = .ack → s.wire = .swd → s.tapIn = r :: rest → decode .ack (r.ack.setWidth 40) = .ok i →
    step s = exec i { s with tapIn := rest }) ∧
  (∀ s r rest i, s.stage = .ack → s.wire = .jtag → s.tapIn = r :: rest →
    decode .ack ((jtagAck s.cfg r.ack).setWidth 40) = .ok i →
    step s = exec i { s with tapIn := rest, acc := { s.acc with value := r.scanData } }) ∧
  (∀ s r rest, s.stage = .ack → s.wire = .jtag → s.tapIn = r :: rest →
    let t := { s with tapIn := rest, acc := { s.acc with value := r.scanData } }
    if r.ack = s.cfg.jtagAckWait then step s = exec .ackWait t
    else if r.ack = s.cfg.jtagAckFault then step s = exec .ackFault t
    else if r.ack = s.cfg.jtagAckOk then step s = exec .ackOk t
    else ∃ i ∈ [Instr.ackInvalid0, .ackInvalid3, .ackInvalid5, .ackInvalid6, .ackInvalid7], step s = exec i t) ∧
  (∀ s : State, s.wire = if s.cont = .scan then .swd else s.dp.variant) ∧
  (∀ s r rest i, s.stage = .data → s.acc.rnw = true → s.tapIn = r :: rest →
    decode .swdData ((dataPhaseWord r.word (if r.parityOk then evenParity r.word else !evenParity r.word)).setWidth 40)
      = .ok i →
    step s = exec i { s with tapIn := rest }) ∧
  (∀ s i, s.stage = .data → s.acc.rnw = false →
    decode .swdData ((dataPhaseWord s.acc.wval (evenParity s.acc.wval)).setWidth 40) = .ok i → step s = exec i s) ∧
  (∀ s i, s.stage = .flush → decode .swdFlush 0x00 = .ok i → step s = exec i s) ∧
  (∀ s i, s.stage = .lineReset → decode .lineReset 0xE79E = .ok i → step s = exec i s)

/-- R27, R28: while no command runs the host's register and buffer writes are taken one at a time, each writing its own
register or byte; with nothing to take the engine waits (the queue is the model's choice, log 1). -/
def Obligations.HostWritesTaken : Prop :=
  ∀ s : State, s.stage = .idle →
    (s.hostIn = [] → step s = .next s) ∧
    (∀ v rest, s.hostIn = .argAp v :: rest → step s = .next { s with hostIn := rest, port := { s.port with argAp := v } }) ∧
    (∀ v rest, s.hostIn = .argAddr v :: rest →
      step s = .next { s with hostIn := rest, port := { s.port with argAddr := v } }) ∧
    (∀ v rest, s.hostIn = .argValue v :: rest →
      step s = .next { s with hostIn := rest, port := { s.port with argValue := v } }) ∧
    (∀ v rest, s.hostIn = .argLen v :: rest →
      step s = .next { s with hostIn := rest, port := { s.port with argLen := v } }) ∧
    (∀ i b rest, s.hostIn = .hbuf i b :: rest → ∃ m,
      step s = .next { s with hostIn := rest, hbuf := m } ∧ Memory.read m i.toNat = b ∧
      ∀ j, j ≠ i.toNat → Memory.read m j = s.hbufByte j)

/-- R108 (a), R111, R265: an opcode not in R107 makes no call and changes nothing but RSP_STATUS, which is BAD_CMD; the
numbers of the seven statuses, 7 being none of them. -/
def Obligations.UndefinedOpcodeRefused : Prop :=
  ([Status.ok, .timeout, .protocolError, .memoryFault, .noDp, .badAp, .badCmd].map Status.code = [0, 1, 2, 3, 4, 5, 6] ∧
    ∀ r : Status, r.code ≠ 7) ∧
  ∀ (s : State) (op : Byte) (rest : List HostAction), s.stage = .idle → s.hostIn = .command op :: rest → op ∉ opcodes →
    step s = .next { s with hostIn := rest, port := { s.port with cmd := op, rspStatus := 6 } }

/-- R27, R142, R296, R297: no act of the host is taken, and no operand register changes, while a command runs; a command
issued then has no meaning (R296) and is refused, which is the model's choice (logs 1 and 19). -/
def Obligations.HostWaitsWhileBusy : Prop :=
  (∀ s t : State, s.stage ≠ .idle → step s = .next t →
    t.hostIn = s.hostIn ∧ t.port.cmd = s.port.cmd ∧ t.port.argAp = s.port.argAp ∧ t.port.argAddr = s.port.argAddr ∧
    t.port.argValue = s.port.argValue ∧ t.port.argLen = s.port.argLen) ∧
  (∀ (i : Instr) (s : State), i.isCommand = true → s.stage ≠ .idle → exec i s = .refused .commandWhileBusy)

/-- R141 ("and no other"): a link operation given outside its phase is refused, which is the model's choice (log 19). -/
def Obligations.LinkWordsOutOfPhaseRefused : Prop :=
  ∀ (i : Instr) (s : State), i.isCommand = false →
    (match (encode i).fmt with
      | .swdReq => ¬ (s.stage = .request ∧ s.wire = .swd)
      | .jtagDr _ => ¬ (s.stage = .request ∧ s.wire = .jtag) ∧ s.stage ≠ .collect
      | .jtagIr => s.stage ≠ .ir ∧ s.stage ≠ .reloadIr ∧ s.stage ≠ .collectIr
      | .ack => s.stage ≠ .ack
      | .swdData => s.stage ≠ .data
      | .swdFlush => s.stage ≠ .flush
      | .lineReset => s.stage ≠ .lineReset
      | .cmd => False) →
    exec i s = .refused .outOfPhase

/-- R131: an AP-addressed access on a latched fault makes no call, passes through Faulted to Idle and returns
`(0, SKIPPED)`; every other access goes on, whatever the latch holds, on SWD to the clock reading (R132), on JTAG to the
IR load (R133). That `t0`, undefined between accesses (R26), becomes a free value is the model's form of it (log 13). -/
def Obligations.ShortCircuit : Prop :=
  ∀ s : State, s.stage = .start →
    (s.acc.addr.getLsbD 8 = true ∧ s.dp.fault = true →
      step s = .next (resume 0 .skipped { s with
        fsm := .idle, fsmLog := .idle :: .faulted :: s.fsmLog, t0 := Config.freeT0 s.nonce, nonce := s.nonce + 1 })) ∧
    (¬ (s.acc.addr.getLsbD 8 = true ∧ s.dp.fault = true) →
      step s = .next { s with stage := if s.wire = .swd then .clock else .ir })

/-- R10, R11, R135: the clock is read once before the first attempt; a call whose answer has not come blocks, and changes
nothing (the queues of answers are the model's choice, logs 2 and 3); with JTAG_POSTED the bits a request scan shifts out
answer the scan before and are dropped (U11; the model's choice, log 21). -/
def Obligations.ClockReadAndBlocking : Prop :=
  (∀ s now rest, s.stage = .clock → s.clkIn = now :: rest →
    step s = .next { s with trace := .nowMs :: s.trace, clkIn := rest, t0 := now, stage := .request }) ∧
  (∀ s : State, s.stage = .clock ∨ s.stage = .retryClock → s.clkIn = [] → step s = .next s) ∧
  (∀ s dropped rest, s.stage = .drain → s.tapIn = dropped :: rest →
    step s = .next { s with
      tapIn := rest, stage := if s.acc.addr.getLsbD 8 = true then .collectIr else .collect }) ∧
  (∀ s : State, s.stage = .drain ∨ s.stage = .ack ∨ s.stage = .data ∧ s.acc.rnw = true → s.tapIn = [] →
    step s = .next s)

/-! ### The machine -/

/-- R50, R290: what reset leaves, for every field the spec gives a reset value; and the parameters with the defaults of R7
and R99, which that reset carries them is the model's choice (log 7). -/
def Obligations.ResetValues : Prop :=
  State.reset.dp.valid = false ∧ State.reset.dp.fault = false ∧ State.reset.dp.selCache = none ∧
  (∀ i, State.reset.apPresent i = false ∧ State.reset.cswCache i = none ∧ State.reset.tarCache i = none) ∧
  State.reset.fsm = .idle ∧ State.reset.rspFault = false ∧ State.reset.trace = [] ∧
  State.reset.cfg.waitTimeoutMs = 2000 ∧ State.reset.cfg.lineResetHighCycles = 50 ∧
  State.reset.cfg.tarWrapBits = 10 ∧ State.reset.cfg.flushOnNonOk = false ∧ State.reset.cfg.jtagPosted = false ∧
  State.reset.cfg.jtagAckOk = 0b001 ∧ State.reset.cfg.jtagAckWait = 0b010 ∧ State.reset.cfg.jtagAckFault = 0b100 ∧
  (∀ i, cswBaseOf State.reset.cfg i = 0) ∧
  (∀ i s, i ∈ commandsNeedingDp → s = State.reset →
    exec i s = .next { s with port := { s.port with rspStatus := 4 } })

/-- R50: the state after reset meets the invariant; what the invariant calls canonical of a buffer is: indexes strictly
rising, no entry 0, the value the model gives an unwritten byte (log 12). -/
def Obligations.ResetMeetsInvariant : Prop :=
  State.reset.Inv ∧
  ∀ m : List Host.Cell, Memory.wf m = true ↔ m.Pairwise (fun c d => c.1 < d.1) ∧ ∀ c ∈ m, c.2 ≠ 0

/-- R22, R24, R25, R28, R29, R50, R141, R265: every step keeps the invariant: HBUF canonical, no cache of an absent AP,
nothing without a DebugPort, the AP a command names present, the phase fitting the command and the link, `fsm` on the
paths of R141, the window of a transfer legal. -/
def Obligations.StepKeepsInvariant : Prop :=
  ∀ s t : State, s.Inv → step s = .next t → t.Inv

/-- R92, R93, R98, R269: no state stops the machine: every step answers a next state. -/
def Obligations.StepNeverStops : Prop :=
  ∀ s : State, ∃ t, step s = .next t

/-- R7, R51: the configuration is fixed for a run. -/
def Obligations.StepKeepsConfig : Prop :=
  ∀ s t : State, step s = .next t → t.cfg = s.cfg

/-- R30, R47, R263, R269: the fault latch is sticky: a step clears it only as the last move of DP_ERROR, or by running
DP_ERROR, DP_SCAN, DP_ATTACH_JTAG or DETACH; DP_ABORT does not. -/
def Obligations.FaultLatchSticky : Prop :=
  ∀ s t : State, s.dp.fault = true → step s = .next t → t.dp.fault = false →
    (s.stage ≠ .idle ∧ ∃ e, s.cont = .errorAbort e) ∨
    (s.stage = .idle ∧ ∃ op rest, s.hostIn = .command op :: rest ∧
      (op = 0x01 ∨ op = 0x02 ∨ op = 0x03 ∨ op = 0x14))

/-- R30, R137, R243, R263: one event only sets the latch: an acknowledge FAULT of a `low_access`. No link operation but
ACK.FAULT sets it; no act of the host, no internal move and no step of a command under way sets it, unless that step
takes a FAULT; a command run from idle sets it only if it took one, `fsm` passing from RequestSent to Faulted, and
DP_SCAN, DP_ATTACH_JTAG, DETACH, CACHE_INVALIDATE and undefined opcodes never do. -/
def Obligations.FaultLatchSetByFaultOnly : Prop :=
  (∀ (i : Instr) (s t : State), i.isCommand = false → exec i s = .next t → s.dp.fault = false → t.dp.fault = true →
    i = .ackFault ∧ s.stage = .ack ∧ s.cont ≠ .scan) ∧
  (∀ s t : State, step s = .next t → s.dp.fault = false → t.dp.fault = true →
    (s.stage = .ack ∧ s.cont ≠ .scan ∧ ∃ r rest, s.tapIn = r :: rest ∧ r.row s.wire s.cfg = 0b100) ∨
    (s.stage = .idle ∧ ∃ op rest taken before after,
      s.hostIn = .command op :: rest ∧ op ∈ opcodes ∧ op ∉ ([0x01, 0x02, 0x03, 0x2F] : List Byte) ∧
      s.tapIn = taken ++ t.tapIn ∧ (∃ r ∈ taken, r.row s.dp.variant s.cfg = 0b100) ∧
      t.fsmLog = after ++ .faulted :: .requestSent :: (before ++ s.fsmLog)))

/-- R73, R142, R310: a command run from idle either completes or waits for an answer of the transport or the clock that
has not come; it never stops half way for another reason. That one step runs it so far is the model's choice (log 5). -/
def Obligations.CommandCompletesOrWaits : Prop :=
  ∀ (i : Instr) (s t : State), i.isCommand = true → s.stage = .idle → exec i s = .next t →
    t.stage = .idle ∨
    ((t.stage = .clock ∨ t.stage = .retryClock) ∧ t.clkIn = []) ∨
    ((t.stage = .drain ∨ t.stage = .ack ∨ t.stage = .data ∧ t.acc.rnw = true) ∧ t.tapIn = [])

/-- The model's record of the ports keeps its order: calls and moves of `fsm` are only ever appended, answers only ever
taken from the front. Every clause is about fields of the model's own (`trace`, `fsmLog`, `tapIn`, `clkIn`: its choice,
logs 2, 3 and 4), which stand for the order of R73 and the oracles of R10 and R11. -/
def Obligations.CallsAppendOnly : Prop :=
  ∀ s t : State, step s = .next t →
    (∃ calls, t.trace = calls ++ s.trace) ∧ (∃ moves, t.fsmLog = moves ++ s.fsmLog) ∧
    (∃ taken, s.tapIn = taken ++ t.tapIn) ∧ (∃ taken, s.clkIn = taken ++ t.clkIn)

/-! ### Taking an exception -/

/-- R111, R141, R260, R268: what `raise` does, field by field; `dp.valid`, `dp.idcode`, `dp.variant`, `dp.fault`, every AP's presence and IDR,
RSP_VALUE and the calls stay. That `t0` (R26), and after a memory command `win` (R24), undefined from then on, become
free values is the model's form of it (log 13). -/
def Obligations.RaiseEffects : Prop :=
  (∀ (c : Condition) (s : State), raise c s = s.afterRaise c) ∧
  (Condition.timeout.fsm, Condition.timeout.status.code) = (Fsm.timeoutError, 1#3) ∧
  (Condition.badAck.fsm, Condition.badAck.status.code) = (Fsm.protocolError, 2#3) ∧
  (Condition.parity.fsm, Condition.parity.status.code) = (Fsm.protocolError, 2#3)

/-! ### The link operations -/

/-- R92: in its phase each of the sixteen requests sends its own byte and nothing else, and an access in flight chooses
the row of its APnDP, RnW and `addr[3:2]`, so no other byte is ever sent as a request. -/
def Obligations.SwdRequestsSend : Prop :=
  (∀ r ∈ requestTable, ∀ s : State, s.stage = .request → s.wire = .swd →
    exec r.instr s = .next { s with
      trace := .seqOut (r.byte.setWidth 32) 8 :: s.trace
      stage := .ack
      fsm := if s.cont = .scan then s.fsm else .requestSent
      fsmLog := if s.cont = .scan then s.fsmLog else .requestSent :: s.fsmLog }) ∧
  (∀ s : State, s.stage = .request → s.wire = .swd →
    ∃ r ∈ requestTable, r.ap = s.acc.addr.getLsbD 8 ∧ r.rnw = s.acc.rnw ∧ r.a = s.acc.addr.extractLsb' 2 2 ∧
      step s = exec r.instr s)

/-- R98, R133, R144, R145: in its phase each of the sixteen scans shifts `{data, addr[3:2], RnW}`, and an access in flight
chooses its row, with its write data, or zero on a read. With JTAG_POSTED a further scan, a read of RDBUFF, collects the
response (U11; what it carries is the model's choice, log 21). -/
def Obligations.JtagScansShift : Prop :=
  (∀ (d : Word), ∀ r ∈ scanTable d, ∀ s : State, s.stage = .request → s.wire = .jtag →
    exec r.2.2 s = .next { s with
      trace := .jtagDr (d ++ r.2.1) :: s.trace, stage := if s.cfg.jtagPosted then .drain else .ack
      fsm := .requestSent, fsmLog := .requestSent :: s.fsmLog }) ∧
  (∀ s : State, s.stage = .request → s.wire = .jtag →
    ∃ r ∈ scanTable (if s.acc.rnw then 0 else s.acc.wval), r.1 = s.acc.addr.getLsbD 8 ∧
      r.2.1 = s.acc.addr.extractLsb' 2 2 ++ BitVec.ofBool s.acc.rnw ∧ step s = exec r.2.2 s) ∧
  (∀ s : State, s.stage = .collect →
    (∀ (d : Word), ∀ r ∈ scanTable d,
      exec r.2.2 s = .next { s with trace := .jtagDr (d ++ r.2.1) :: s.trace, stage := .ack }) ∧
    step s = exec (.jtagDpRdC 0) s)

/-- R97, R133: the IR load sends 0b1010 for DPACC, 0b1011 for APACC, and the access's APnDP chooses. With JTAG_POSTED it is
made again before a retry, and before the collecting scan, there with DPACC (the model's choice, log 21). -/
def Obligations.JtagIrLoads : Prop :=
  ∀ s : State, s.stage = .ir ∨ s.stage = .reloadIr ∨ s.stage = .collectIr →
    let next : Stage := if s.stage = .ir then .clock else if s.stage = .reloadIr then .request else .collect
    exec .jtagIrDpacc s = .next { s with trace := .jtagIr 0b1010 :: s.trace, stage := next } ∧
    exec .jtagIrApacc s = .next { s with trace := .jtagIr 0b1011 :: s.trace, stage := next } ∧
    step s = exec (if s.stage ≠ .collectIr ∧ s.acc.addr.getLsbD 8 = true then .jtagIrApacc else .jtagIrDpacc) s

/-- R133, R134, R144, R240: OK leads to the data phase; on JTAG the data has come with the scan and the access returns.
A free value for `t0` (R26) afterwards is the model's form of undefined (log 13). -/
def Obligations.AckOkProceeds : Prop :=
  ∀ s : State, s.stage = .ack →
    (s.cont ≠ .scan → s.dp.variant = .swd →
      exec .ackOk s = .next { s with
        trace := .seqIn 3 :: s.trace, fsm := .dataPhase, fsmLog := .dataPhase :: s.fsmLog, stage := .data }) ∧
    (s.cont ≠ .scan → s.dp.variant = .jtag →
      exec .ackOk s = .next (resume (if s.acc.rnw then s.acc.value else 0) .ok { s with
        fsm := .idle, fsmLog := .idle :: .dataPhase :: s.fsmLog, t0 := Config.freeT0 s.nonce,
        nonce := s.nonce + 1 })) ∧
    (s.cont = .scan → exec .ackOk s = .next { s with trace := .seqIn 3 :: s.trace, stage := .data })

/-- R135, R136: WAIT reads the clock and retries exactly while `(now - t0) mod 2^32` is below the bound, and raises
Timeout at or past it; until the clock answers it waits, and the step that finds the reading decides the same way, `t0`
untouched (log 26). That the flush of FLUSH_ON_NON_OK, where it is true,
stands before the reading is the model's choice (`nonOkCalls`, log 20), and so is the IR load before a posted retry (log
21). A free value for `t0` (R26), and after a raise in a memory command for `win` (R24), is the model's form of
undefined (log 13). -/
def Obligations.AckWaitRetriesOrTimesOut : Prop :=
  let again (s : State) : Stage :=
    if s.cfg.jtagPosted ∧ s.wire = .jtag ∧ s.acc.addr.getLsbD 8 then .reloadIr else .request
  (∀ s : State, s.stage = .ack → s.cont ≠ .scan →
    (s.clkIn = [] → exec .ackWait s = .next { s with
      trace := (s.ackCalls ++ s.nonOkCalls).reverse ++ s.trace, fsm := .retrying, fsmLog := .retrying :: s.fsmLog,
      stage := .retryClock }) ∧
    (∀ now rest, s.clkIn = now :: rest → (now - s.t0).toNat < s.cfg.waitTimeoutMs.toNat →
      exec .ackWait s = .next { s with
        trace := .nowMs :: (s.ackCalls ++ s.nonOkCalls).reverse ++ s.trace, clkIn := rest, fsm := .retrying,
        fsmLog := .retrying :: s.fsmLog, stage := again s }) ∧
    (∀ now rest, s.clkIn = now :: rest → s.cfg.waitTimeoutMs.toNat ≤ (now - s.t0).toNat →
      exec .ackWait s = .next (State.afterRaise { s with
        trace := .nowMs :: (s.ackCalls ++ s.nonOkCalls).reverse ++ s.trace, clkIn := rest, fsm := .retrying,
        fsmLog := .retrying :: s.fsmLog } .timeout))) ∧
  (∀ (s : State) (now : Word) (rest : List Word), s.stage = .retryClock → s.clkIn = now :: rest →
    ((now - s.t0).toNat < s.cfg.waitTimeoutMs.toNat →
      step s = .next { s with trace := .nowMs :: s.trace, clkIn := rest, stage := again s }) ∧
    (s.cfg.waitTimeoutMs.toNat ≤ (now - s.t0).toNat →
      step s = .next (State.afterRaise { s with trace := .nowMs :: s.trace, clkIn := rest } .timeout)))

/-- R137: FAULT sets the latch and the access returns `(0, FAULT)` with no data phase; no flush follows, but under
FLUSH_ON_NON_OK on SWD, where its place is the model's choice (`nonOkCalls`, log 20). A free value for `t0` (R26)
afterwards is the model's form of undefined (log 13). -/
def Obligations.AckFaultLatches : Prop :=
  ∀ s : State, s.stage = .ack → s.cont ≠ .scan →
    exec .ackFault s = .next (resume 0 .fault { s with
      dp := { s.dp with fault := true }, trace := (s.ackCalls ++ s.nonOkCalls).reverse ++ s.trace, fsm := .idle,
      fsmLog := .idle :: .faulted :: s.fsmLog, t0 := Config.freeT0 s.nonce, nonce := s.nonce + 1 })

/-- R93, R138: each of the five invalid patterns raises ProtocolError at once, with no retry and no data phase; no flush
follows, but under FLUSH_ON_NON_OK on SWD, where its place is the model's choice (`nonOkCalls`, log 20). A free value
for `t0` (R26), and after a raise in a memory command for `win` (R24), is the model's form of undefined (log 13).
-/
def Obligations.InvalidAckRaises : Prop :=
  ∀ i ∈ [Instr.ackInvalid0, .ackInvalid3, .ackInvalid5, .ackInvalid6, .ackInvalid7], ∀ s : State, s.stage = .ack →
    s.cont ≠ .scan →
    exec i s = .next (State.afterRaise { s with trace := (s.ackCalls ++ s.nonOkCalls).reverse ++ s.trace } .badAck)

/-- R242, R243: in DP_SCAN every acknowledge but OK fails the scan: no retry, no clock reading, no latch, NO_DP. -/
def Obligations.ScanAckFails : Prop :=
  ∀ i ∈ [Instr.ackWait, .ackFault, .ackInvalid0, .ackInvalid3, .ackInvalid5, .ackInvalid6, .ackInvalid7], ∀ s : State,
    s.stage = .ack → s.cont = .scan →
    exec i s = .next ({ s with trace := .seqIn 3 :: s.trace }.completed .noDp)

/-- R94, R132, R139, R242: a received data phase with good parity keeps the word, one with bad parity discards it and
raises (or fails the scan); a sent one passes the word on. That good parity is the even parity bit in the word of
SWD.DATA is the model's choice (log 17): the engine sees only the transport's verdict. The parity bit is the exclusive-or
of the 32 data bits (R94). A free value for `t0` (R26), and
after a raise in a memory command for `win` (R24), is the model's form of undefined (log 13). -/
def Obligations.DataPhase : Prop :=
  (∀ (d : Word) (p : Bool),
    (evenParity d = true ↔ ((List.range 32).filter (fun i => d.getLsbD i)).length % 2 = 1) ∧
    (dataPhaseWord d p).extractLsb' 0 32 = d ∧ (dataPhaseWord d p).getLsbD 32 = p) ∧
  ∀ (d : Word) (p : Bool) (s : State), s.stage = .data →
    (s.acc.rnw = true → p = evenParity d → exec (.swdData d p) s = .next { s with
      trace := .seqInPar 32 :: s.trace, acc := { s.acc with value := d }, stage := .flush }) ∧
    (s.acc.rnw = true → p ≠ evenParity d → s.cont ≠ .scan → exec (.swdData d p) s = .next
      (State.afterRaise { s with trace := .seqInPar 32 :: s.trace } .parity)) ∧
    (s.acc.rnw = true → p ≠ evenParity d → s.cont = .scan → exec (.swdData d p) s = .next
      ({ s with trace := .seqInPar 32 :: s.trace }.completed .noDp)) ∧
    (s.acc.rnw = false → exec (.swdData d p) s = .next { s with
      trace := .seqOutPar d 32 :: s.trace, acc := { s.acc with value := 0 }, stage := .flush })

/-- R95, R132, R240, R241, R244: the flush ends the access with `(v, OK)`; in DP_SCAN it ends the scan, which creates
the DebugPort. A free value for `t0` (R26) afterwards is the model's form of undefined (log 13). -/
def Obligations.FlushCompletes : Prop :=
  ∀ s : State, s.stage = .flush →
    (s.cont ≠ .scan → exec .swdFlush s = .next (resume s.acc.value .ok { s with
      trace := .seqOut 0 8 :: s.trace, fsm := .idle, fsmLog := .idle :: s.fsmLog, t0 := Config.freeT0 s.nonce,
      nonce := s.nonce + 1 })) ∧
    (s.cont = .scan → exec .swdFlush s = .next ({ s with
      trace := .seqOut 0 8 :: s.trace, dp := { s.dp with valid := true, idcode := s.acc.value, variant := .swd },
      port := { s.port with rspValue := s.acc.value } }.completed .ok))

/-- R105, R240: the switch sequence 0xE79E, the second run of ones and the sixteen zeros. The calls and their order are the
rules'; that the row SWD.JTAG2SWD makes the second run and the zeros too is the model's split (log 23). -/
def Obligations.SwitchSequence : Prop :=
  ∀ s : State, s.stage = .lineReset →
    exec .swdJtag2Swd s = .next { s with
      trace := .seqOut 0 16 ::
        (List.replicate s.cfg.lineResetHighCycles (.bitOut true) ++ .seqOut 0xE79E 16 :: s.trace)
      stage := .request }

/-! ### The commands that make no call -/

/-- R50, R184, R247, R252: DP_ATTACH_JTAG, DETACH and CACHE_INVALIDATE make no call, are legal without a DebugPort, and
leave what their rules say; what R50 calls unspecified after them (every AP's IDR; after DETACH also idcode and variant)
is a free value, which is the model's form of it (log 13). -/
def Obligations.WireSilentCommands : Prop :=
  ∀ s : State, s.stage = .idle →
    exec .dpAttachJtag s = .next { s with
      dp := ⟨true, s.port.argValue, false, none, .jtag⟩, aps := apsGone s.nonce, nonce := s.nonce + 1,
      port := { s.port with rspStatus := 0, rspValue := s.port.argValue } } ∧
    exec .detach s = .next { s with
      dp := ⟨false, Config.freeIdcode s.nonce, false, none, Config.freeVariant s.nonce⟩, aps := apsGone s.nonce,
      nonce := s.nonce + 1, port := { s.port with rspStatus := 0 } } ∧
    exec .cacheInvalidate s = .next { s with
      dp := { s.dp with selCache := none },
      aps := ApTable.map (fun p => { p with cswCache := none, tarCache := none }) s.aps,
      port := { s.port with rspStatus := 0 } }

/-- R265: without a DebugPort the eleven commands that need one write NO_DP and nothing else. -/
def Obligations.NoDebugPortRefused : Prop :=
  ∀ i ∈ commandsNeedingDp, ∀ s : State, s.stage = .idle → s.dp.valid = false →
    exec i s = .next { s with port := { s.port with rspStatus := 4 } }

/-- R186: the commands that name an AP write BAD_AP and nothing else when it is not present. -/
def Obligations.AbsentApRefused : Prop :=
  ∀ i ∈ [Instr.apRead, .apWrite, .memRead, .memWrite], ∀ s : State, s.stage = .idle → s.dp.valid = true →
    s.apPresent s.port.argAp = false → exec i s = .next { s with port := { s.port with rspStatus := 5 } }

/-- R185, R201, R215: the entry checks of the memory commands in their order, each ending the command with no call: NO_DP,
BAD_AP, length 0 (OK whatever the latch holds), the latched fault (MEMORY_FAULT of zero bytes); on a latched fault AP_READ
returns 0 and AP_WRITE does nothing, both OK with no call. -/
def Obligations.EntryChecks : Prop :=
  ∀ s : State, s.stage = .idle →
    (∀ i ∈ [Instr.memRead, .memWrite],
      (s.dp.valid = false → exec i s = .next { s with port := { s.port with rspStatus := 4 } }) ∧
      (s.dp.valid = true → s.apPresent s.port.argAp = false →
        exec i s = .next { s with port := { s.port with rspStatus := 5 } }) ∧
      (s.dp.valid = true → s.apPresent s.port.argAp = true → s.port.argLen = 0 →
        exec i s = .next { s with port := { s.port with rspStatus := 0, rspCount := 0 } }) ∧
      (s.dp.valid = true → s.apPresent s.port.argAp = true → s.port.argLen ≠ 0 → s.dp.fault = true →
        exec i s = .next { s with port := { s.port with rspStatus := 3, rspCount := 0 } })) ∧
    (s.dp.valid = true → s.apPresent s.port.argAp = true → s.dp.fault = true →
      exec .apRead s = .next { s with port := { s.port with rspStatus := 0, rspValue := 0 } } ∧
      exec .apWrite s = .next { s with port := { s.port with rspStatus := 0 } })

/-- R131, R143, R160, R162: LOW_ACCESS_RD, LOW_ACCESS_WR, DP_READ and DP_WRITE of an AP register on a latched fault make
no call and complete OK, the value being 0. A free value for `t0` (R26) afterwards is the model's form of undefined (log
13). -/
def Obligations.SkippedCommands : Prop :=
  ∀ s : State, s.stage = .idle → s.dp.valid = true → s.dp.fault = true → s.argReg.getLsbD 8 = true →
    let t : State := { s with
      aps := ApTable.map (fun p => { p with cswCache := none, tarCache := none }) s.aps
      fsm := .idle, fsmLog := .idle :: .faulted :: s.fsmLog, t0 := Config.freeT0 s.nonce, nonce := s.nonce + 1 }
    (∀ i ∈ [Instr.lowAccessRd, .lowAccessWr, .dpRead],
      exec i s = .next ({ t with port := { t.port with rspValue := 0 } }.completed .ok)) ∧
    exec .dpWrite s = .next (t.completed .ok)

/-! ### The commands that make calls -/

/-- R105, R240, R241, R244, R245, R313: DP_SCAN with an OK and a word of good parity: the calls in order, from
`TAP.init()` to the flush, with at least 50 ones in each run, and the DebugPort that is created. Every AP's IDR is free
(R50), which is the model's form of it (log 13). -/
def Obligations.DpScanCreates : Prop :=
  ∀ (s : State) (a d : TapReply) (rest : List TapReply), s.stage = .idle → s.tapIn = a :: d :: rest →
    a.ack = 0b001 → d.parityOk = true →
    50 ≤ s.cfg.lineResetHighCycles ∧
    exec .dpScan s = .next ({ s with
      dp := ⟨true, d.word, false, none, .swd⟩, aps := apsGone s.nonce, nonce := s.nonce + 1, tapIn := rest,
      port := { s.port with rspValue := d.word },
      trace := .seqOut 0 8 :: .seqInPar 32 :: ((scanCalls s.cfg.lineResetHighCycles).reverse ++ s.trace) }.completed .ok)

/-- R240, R242, R243: DP_SCAN answered anything but OK, or with a word of bad parity, creates nothing and reports NO_DP,
with no further call. What R50 calls unspecified then (idcode, variant, every AP's IDR) is free, which is the model's
form of it (log 13). -/
def Obligations.DpScanFails : Prop :=
  ∀ (s : State) (a : TapReply) (rest : List TapReply), s.stage = .idle → s.tapIn = a :: rest →
    let calls := scanCalls s.cfg.lineResetHighCycles
    let t : State := { s with
      dp := ⟨false, Config.freeIdcode s.nonce, false, none, Config.freeVariant s.nonce⟩
      aps := apsGone s.nonce, nonce := s.nonce + 1 }
    (a.ack ≠ 0b001 →
      exec .dpScan s = .next ({ t with tapIn := rest, trace := calls.reverse ++ s.trace }.completed .noDp)) ∧
    (∀ d rest', a.ack = 0b001 → rest = d :: rest' → d.parityOk = false →
      exec .dpScan s = .next
        ({ t with tapIn := rest', trace := .seqInPar 32 :: (calls.reverse ++ s.trace) }.completed .noDp))

/-- R143, R162, R164, R165, R132, R133: LOW_ACCESS_RD, LOW_ACCESS_WR, DP_WRITE and DP_ABORT served OK: the cache effects
of R165, one access, and the result. Over JTAG with JTAG_POSTED the calls of an access are the model's choice (log 21).
A free value for `t0` (R26) afterwards is the model's form of undefined (log 13). -/
def Obligations.SingleAccessCommands : Prop :=
  ∀ (s : State) (now val : Word) (clk : List Word) (tap : List TapReply), s.stage = .idle → s.dp.valid = true →
    s.clkIn = now :: clk →
    (¬ (s.argReg.getLsbD 8 = true ∧ s.dp.fault = true) → servesOk s.dp.variant s.cfg true val s.tapIn tap →
      let t := (rawCacheEffects s.argReg false s.port.argValue s).afterOk true s.argReg s.port.argValue tap clk
      exec .lowAccessRd s = .next ({ t with port := { s.port with rspValue := val } }.completed .ok)) ∧
    (¬ (s.argReg.getLsbD 8 = true ∧ s.dp.fault = true) → servesOk s.dp.variant s.cfg false 0 s.tapIn tap →
      let t := (rawCacheEffects s.argReg true s.port.argValue s).afterOk false s.argReg s.port.argValue tap clk
      exec .lowAccessWr s = .next ({ t with port := { s.port with rspValue := 0 } }.completed .ok) ∧
      exec .dpWrite s = .next (t.completed .ok)) ∧
    (servesOk s.dp.variant s.cfg false 0 s.tapIn tap →
      let t := (rawCacheEffects 0x000 true s.port.argValue s).afterOk false 0x000 s.port.argValue tap clk
      exec .dpAbort s = .next (t.completed .ok))

/-- R160, R161: DP_READ of a DP register is one access; of an AP register it is the read, whose value is discarded, and
then RDBUFF, whose value is returned. Over JTAG with JTAG_POSTED the calls of an access are the model's choice, and so
is that a pipelined read keeps its first read and its closing RDBUFF read there (log 21). A free value for `t0` (R26)
afterwards is the model's form of undefined (log 13). -/
def Obligations.DpReadPipelined : Prop :=
  ∀ (s : State) (val : Word) (tap : List TapReply), s.stage = .idle → s.dp.valid = true →
    let s1 := rawCacheEffects s.argReg false 0 s
    (∀ now clk, s.argReg.getLsbD 8 = false → s.clkIn = now :: clk → servesOk s.dp.variant s.cfg true val s.tapIn tap →
      exec .dpRead s = .next ({ s1.afterOk true s.argReg 0 tap clk with
        port := { s.port with rspValue := val } }.completed .ok)) ∧
    (∀ now now' clk mid stale, s.argReg.getLsbD 8 = true → s.dp.fault = false → s.clkIn = now :: now' :: clk →
      servesOk s.dp.variant s.cfg true stale s.tapIn mid → servesOk s.dp.variant s.cfg true val mid tap →
      exec .dpRead s = .next ({ (s1.afterOk true s.argReg 0 mid (now' :: clk)).afterOk true 0x00C 0 tap clk with
        port := { s.port with rspValue := val } }.completed .ok))

/-- R137, R143, R160, R162, R164: an access of a DP-level command answered FAULT: the latch is set, the value is 0 and
the status OK; after the first access of a pipelined read no RDBUFF read follows, and a FAULT on that RDBUFF read ends
the command the same way. Over JTAG with JTAG_POSTED the calls of an access are the model's choice, and so is that a
pipelined read keeps its first read and its closing RDBUFF read there (log 21). A free value for `t0` (R26) afterwards
is the model's form of undefined (log 13). -/
def Obligations.FaultedDpCommands : Prop :=
  ∀ (s : State) (now : Word) (clk : List Word) (tap : List TapReply), s.stage = .idle → s.dp.valid = true →
    s.cfg.flushOnNonOk = false →
    let v := s.port.argValue
    let s1 := rawCacheEffects s.argReg false 0 s
    (¬ (s.argReg.getLsbD 8 = true ∧ s.dp.fault = true) → s.clkIn = now :: clk →
      servesFault s.dp.variant s.cfg s.tapIn tap →
      exec .dpRead s = .next ({ s1.afterFault true s.argReg 0 tap clk with
        port := { s.port with rspValue := 0 } }.completed .ok) ∧
      exec .lowAccessRd s = .next
        ({ (rawCacheEffects s.argReg false v s).afterFault true s.argReg v tap clk with
          port := { s.port with rspValue := 0 } }.completed .ok) ∧
      exec .lowAccessWr s = .next
        ({ (rawCacheEffects s.argReg true v s).afterFault false s.argReg v tap clk with
          port := { s.port with rspValue := 0 } }.completed .ok) ∧
      exec .dpWrite s = .next
        (((rawCacheEffects s.argReg true v s).afterFault false s.argReg v tap clk).completed .ok)) ∧
    (s.clkIn = now :: clk → servesFault s.dp.variant s.cfg s.tapIn tap →
      exec .dpAbort s = .next
        (((rawCacheEffects 0x000 true v s).afterFault false 0x000 v tap clk).completed .ok)) ∧
    (∀ now' mid stale, s.argReg.getLsbD 8 = true → s.dp.fault = false → s.clkIn = now :: now' :: clk →
      servesOk s.dp.variant s.cfg true stale s.tapIn mid → servesFault s.dp.variant s.cfg mid tap →
      exec .dpRead s = .next
        ({ (s1.afterOk true s.argReg 0 mid (now' :: clk)).afterFault true 0x00C 0 tap clk with
          port := { s.port with rspValue := 0 } }.completed .ok))

/-- R102, R163: DP_ERROR reads CTRL/STAT, writes the clear bits even when there are none, clears the latch, and returns
the four sticky bits; a FAULT on either access is cleared all the same. Over JTAG with JTAG_POSTED the calls of an
access are the model's choice (log 21). A free value for `t0` (R26) afterwards is the model's form of undefined (log
13). -/
def Obligations.DpErrorClears : Prop :=
  ∀ (s : State) (now now' : Word) (clk : List Word) (mid tap : List TapReply), s.stage = .idle → s.dp.valid = true →
    s.clkIn = now :: now' :: clk →
    let done (t : State) (err : Word) : State :=
      { t with dp := { t.dp with fault := false }, port := { s.port with rspValue := err } }.completed .ok
    (∀ cs, servesOk s.dp.variant s.cfg true cs s.tapIn mid → servesOk s.dp.variant s.cfg false 0 mid tap →
      exec .dpError s = .next (done ((s.afterOk true 0x004 0 mid (now' :: clk)).afterOk false 0x000
        (clearBits (cs &&& 0xB2)) tap clk) (cs &&& 0xB2))) ∧
    (s.cfg.flushOnNonOk = false → servesFault s.dp.variant s.cfg s.tapIn mid →
      servesOk s.dp.variant s.cfg false 0 mid tap →
      exec .dpError s = .next (done ((s.afterFault true 0x004 0 mid (now' :: clk)).afterOk false 0x000 0 tap clk) 0)) ∧
    (∀ cs, s.cfg.flushOnNonOk = false → servesOk s.dp.variant s.cfg true cs s.tapIn mid →
      servesFault s.dp.variant s.cfg mid tap →
      exec .dpError s = .next (done ((s.afterOk true 0x004 0 mid (now' :: clk)).afterFault false 0x000
        (clearBits (cs &&& 0xB2)) tap clk) (cs &&& 0xB2)))

/-- R180, R181, R183: AP_READ: SELECT unless the cache holds the pair, the read, RDBUFF, whose value is returned. Over
JTAG with JTAG_POSTED the calls of an access are the model's choice, and so is that a pipelined read keeps its first
read and its closing RDBUFF read there (log 21). A free value for `t0` (R26) afterwards is the model's form of undefined
(log 13). -/
def Obligations.ApReadReturns : Prop :=
  ∀ (s : State) (now now' : Word) (clk : List Word) (stale val : Word) (mid mid' tap : List TapReply),
    s.stage = .idle → s.dp.valid = true → s.apPresent s.port.argAp = true → s.dp.fault = false →
    let i := s.port.argAp
    let reg : Byte := s.port.argAddr.setWidth 8
    let bank := reg.extractLsb' 4 4
    let read (t : State) : State :=
      apCacheEffects i reg false 0 .ok
        ((t.afterOk true (0x100 ||| reg.setWidth 9) 0 mid' (now' :: clk)).afterOk true 0x00C 0 tap clk)
    servesOk s.dp.variant s.cfg true stale mid mid' → servesOk s.dp.variant s.cfg true val mid' tap →
    (s.dp.selCache = some (i, bank) → s.tapIn = mid → s.clkIn = now :: now' :: clk →
      exec .apRead s = .next ({ read s with port := { s.port with rspValue := val } }.completed .ok)) ∧
    (∀ now0, s.dp.selCache ≠ some (i, bank) → servesOk s.dp.variant s.cfg false 0 s.tapIn mid →
      s.clkIn = now0 :: now :: now' :: clk →
      exec .apRead s = .next ({ read (setSelCache (some (i, bank))
          (s.afterOk false 0x008 (selectValue i bank) mid (now :: now' :: clk))) with
        port := { s.port with rspValue := val } }.completed .ok))

/-- R180, R182, R183: AP_WRITE: SELECT unless the cache holds the pair, then one write. Over JTAG with JTAG_POSTED the
calls of an access are the model's choice (log 21). A free value for `t0` (R26) afterwards is the model's form of
undefined (log 13). -/
def Obligations.ApWriteSends : Prop :=
  ∀ (s : State) (now : Word) (clk : List Word) (mid tap : List TapReply),
    s.stage = .idle → s.dp.valid = true → s.apPresent s.port.argAp = true → s.dp.fault = false →
    let i := s.port.argAp
    let reg : Byte := s.port.argAddr.setWidth 8
    let bank := reg.extractLsb' 4 4
    let write (t : State) : State :=
      apCacheEffects i reg true s.port.argValue .ok (t.afterOk false (0x100 ||| reg.setWidth 9) s.port.argValue tap clk)
    servesOk s.dp.variant s.cfg false 0 mid tap →
    (s.dp.selCache = some (i, bank) → s.tapIn = mid → s.clkIn = now :: clk →
      exec .apWrite s = .next ((write s).completed .ok)) ∧
    (∀ now0, s.dp.selCache ≠ some (i, bank) → servesOk s.dp.variant s.cfg false 0 s.tapIn mid →
      s.clkIn = now0 :: now :: clk →
      exec .apWrite s = .next ((write (setSelCache (some (i, bank))
        (s.afterOk false 0x008 (selectValue i bank) mid (now :: clk)))).completed .ok))

/-- R137, R160, R180 to R183: a FAULT on any access of AP_READ and AP_WRITE: on the SELECT write, which drops the SELECT
cache, after which the AP access is not issued; on the AP access, after which RDBUFF is not read; on the RDBUFF read. In
each case the AP's caches are dropped, the value is 0 and the status OK. Over JTAG with JTAG_POSTED the calls of an
access are the model's choice, and so is that a pipelined read keeps its first read and its closing RDBUFF read there
(log 21). A free value for `t0` (R26) afterwards is the model's form of undefined (log 13). -/
def Obligations.ApCommandsFaulted : Prop :=
  ∀ (s : State) (now : Word) (clk : List Word) (tap : List TapReply),
    s.stage = .idle → s.dp.valid = true → s.apPresent s.port.argAp = true → s.dp.fault = false →
    s.cfg.flushOnNonOk = false →
    let i := s.port.argAp
    let reg : Byte := s.port.argAddr.setWidth 8
    let bank := reg.extractLsb' 4 4
    let addr : BitVec 9 := 0x100 ||| reg.setWidth 9
    let dropped (t : State) : State := setTarCache i none (setCswCache i none t)
    let zero (t : State) : State := { t with port := { s.port with rspValue := 0 } }
    (s.dp.selCache ≠ some (i, bank) → s.clkIn = now :: clk → servesFault s.dp.variant s.cfg s.tapIn tap →
      let t := dropped (setSelCache none (s.afterFault false 0x008 (selectValue i bank) tap clk))
      exec .apRead s = .next ((zero t).completed .ok) ∧ exec .apWrite s = .next (t.completed .ok)) ∧
    (∀ u, s.selects i bank u → u.clkIn = now :: clk → servesFault s.dp.variant s.cfg u.tapIn tap →
      exec .apRead s = .next ((zero (dropped (u.afterFault true addr 0 tap clk))).completed .ok) ∧
      exec .apWrite s = .next ((dropped (u.afterFault false addr s.port.argValue tap clk)).completed .ok)) ∧
    (∀ u now' mid stale, s.selects i bank u → u.clkIn = now :: now' :: clk →
      servesOk s.dp.variant s.cfg true stale u.tapIn mid → servesFault s.dp.variant s.cfg mid tap →
      exec .apRead s = .next
        ((zero (dropped ((u.afterOk true addr 0 mid (now' :: clk)).afterFault true 0x00C 0 tap clk))).completed .ok))

/-- R248 to R251: AP_SCAN. With the latch set at entry (and no command in flight, which the invariant gives while the
engine is idle): no call, nothing found. With every access served OK: the accesses, the AccessPort records, the result
list and the count, under either policy. With a FAULT on an access of candidate `idrs.length`: that candidate and every
later one reads as absent with no further call (R249; the model ends the scan there, log 24), and what was found before
it stays. Over JTAG with JTAG_POSTED the calls of an access are the model's choice, and so is that a pipelined read
keeps its first read and its closing RDBUFF read there (log 21). A free value for `t0` (R26) afterwards is the model's
form of undefined (log 13). -/
def Obligations.ApScanFinds : Prop :=
  ∀ s : State, s.stage = .idle → s.dp.valid = true →
    (s.dp.fault = true → s.cont = .none →
      exec .apScan s = .next { s with
        aps := apsAfterScan s [], port := { s.port with rspStatus := 0, rspCount := 0 }, acc := Access.none }) ∧
    (∀ (idrs vals : List Word) (tap : List TapReply) (nows clk : List Word), s.dp.fault = false →
      scanEnds s.cfg.apScanStopAtFirstZero idrs →
      let p := scanPlan s.dp.selCache idrs.length
      let found := apsFound idrs
      servesPlan s.dp.variant s.cfg p vals s.tapIn tap → keptValues p vals = idrs →
      s.clkIn = nows ++ clk → nows.length = p.length →
      ∃ m, exec .apScan s = .next { s with
          trace := (planCalls s.dp.variant s.cfg p).reverse ++ s.trace
          fsmLog := (planMoves p).reverse ++ s.fsmLog
          fsm := .idle
          tapIn := tap
          clkIn := clk
          t0 := Config.freeT0 (s.nonce + p.length - 1)
          nonce := s.nonce + p.length
          dp := { s.dp with selCache := some (BitVec.ofNat 8 (idrs.length - 1), 0xF) }
          aps := apsAfterScan s found
          hbuf := m
          port := { s.port with rspStatus := 0, rspCount := BitVec.ofNat 32 found.length }
          acc := Access.none
          cont := .none } ∧
        ∀ j, Memory.read m j = ((scanBytes found)[j]?).getD (s.hbufByte j)) ∧
    (∀ (idrs vals : List Word) (k : Nat) (x : PlanItem) (mid tap : List TapReply) (nows clk : List Word),
      s.dp.fault = false → s.cfg.flushOnNonOk = false → idrs.length < 256 →
      (s.cfg.apScanStopAtFirstZero = true → ∀ y ∈ idrs, y ≠ 0) →
      (scanPlan s.dp.selCache idrs.length).length ≤ k →
      (scanPlan s.dp.selCache (idrs.length + 1))[k]? = some x →
      let p := (scanPlan s.dp.selCache (idrs.length + 1)).take k
      let found := apsFound idrs
      servesPlan s.dp.variant s.cfg p vals s.tapIn mid → keptValues p vals = idrs →
      servesFault s.dp.variant s.cfg mid tap → s.clkIn = nows ++ clk → nows.length = k + 1 →
      ∃ m, exec .apScan s = .next { s with
          trace := (planCalls s.dp.variant s.cfg p ++
            requestCalls s.dp.variant s.cfg x.rnw x.addr x.wval).reverse ++ s.trace
          fsmLog := (planMoves p ++ [Fsm.requestSent, .faulted, .idle]).reverse ++ s.fsmLog
          fsm := .idle
          tapIn := tap
          clkIn := clk
          t0 := Config.freeT0 (s.nonce + k)
          nonce := s.nonce + k + 1
          dp := { s.dp with
            fault := true, selCache := if x.addr = 0x008 then none else some (BitVec.ofNat 8 idrs.length, 0xF) }
          aps := apsAfterScan s found
          hbuf := m
          port := { s.port with rspStatus := 0, rspCount := BitVec.ofNat 32 found.length }
          acc := Access.none
          cont := .none } ∧
        ∀ j, Memory.read m j = ((scanBytes found)[j]?).getD (s.hbufByte j))

/-- R200 to R208, R211, R214, R216, R218: MEM_READ with every access served OK, whatever the caches hold and however
many boundaries are crossed: exactly the accesses of the rules in order, unit `j` of HBUF from its lane, the count, the
caches; bytes beyond the count stay, which is the model's choice (log 14). Over JTAG with JTAG_POSTED the calls of an
access are the model's choice, and so is that a pipelined read keeps its first read and its closing RDBUFF read there
(log 21). The boundaries are those of TAR_WRAP_BITS, 1 KiB by default (U18, log 30). A free value for `t0` (R26) and
`win` (R24) afterwards is the model's form of undefined (log 13). -/
def Obligations.MemReadTransfers : Prop :=
  ∀ (s : State) (vals : List Word) (tap : List TapReply) (nows clk : List Word),
    s.stage = .idle → s.dp.valid = true → s.apPresent s.port.argAp = true → s.dp.fault = false → s.port.argLen ≠ 0 →
    let p := memPlan true s
    let sz := accessSize s.port.argAddr s.port.argLen
    let units := keptValues p vals
    servesPlan s.dp.variant s.cfg p vals s.tapIn tap → s.clkIn = nows ++ clk → nows.length = p.length →
    units.length = s.port.argLen.toNat / 2 ^ sz.toNat ∧
    ∃ m, exec .memRead s = .next (memStateAfter true s m tap clk) ∧
      ∀ j, Memory.read m j =
        (if h : j / 2 ^ sz.toNat < units.length then
          (takeLane sz (s.port.argAddr + BitVec.ofNat 32 (j / 2 ^ sz.toNat * 2 ^ sz.toNat))
            units[j / 2 ^ sz.toNat]).extractLsb' (8 * (j % 2 ^ sz.toNat)) 8
         else s.hbufByte j)

/-- R200 to R206, R209 to R211, R214, R216, R218: MEM_WRITE with every access served OK: exactly the accesses of the
rules in order, each unit from HBUF in its lane, HBUF untouched, the count, the caches. Over JTAG with JTAG_POSTED the
calls of an access are the model's choice (log 21). The boundaries are those of TAR_WRAP_BITS, 1 KiB by default (U18,
log 30). A free value for `t0` (R26) and `win` (R24) afterwards is the model's form of undefined (log 13). -/
def Obligations.MemWriteTransfers : Prop :=
  ∀ (s : State) (vals : List Word) (tap : List TapReply) (nows clk : List Word),
    s.stage = .idle → s.dp.valid = true → s.apPresent s.port.argAp = true → s.dp.fault = false → s.port.argLen ≠ 0 →
    let p := memPlan false s
    servesPlan s.dp.variant s.cfg p vals s.tapIn tap → s.clkIn = nows ++ clk → nows.length = p.length →
    exec .memWrite s = .next (memStateAfter false s s.hbuf tap clk)

/-- R204 to R209, R212, R264: a FAULT on any access of a transfer drops the caches and writes DAPABORT; when that is
acknowledged, OK (on SWD at the flush, on JTAG at the acknowledge, R133) or FAULT, the command completes MEMORY_FAULT
with the bytes confirmed, the latch as it is, set by the FAULT. The flush of FLUSH_ON_NON_OK after a FAULT is the
model's choice (`nonOkCalls`, log 20). A free value for `t0` (R26) and `win` (R24) afterwards is the model's form of
undefined (log 13). -/
def Obligations.MemFaultPath : Prop :=
  (∀ (s : State) (rd : Bool) (p : MemPos), s.stage = .ack → s.cont = .mem rd p → p ≠ .abort →
    exec .ackFault s = .next { s with
      dp := { s.dp with fault := true, selCache := if p = .select then none else s.dp.selCache }
      aps := ApTable.map (fun p => { p with cswCache := none, tarCache := none }) s.aps
      trace := (s.ackCalls ++ s.nonOkCalls).reverse ++ s.trace
      fsm := .idle
      fsmLog := .idle :: .faulted :: s.fsmLog
      t0 := Config.freeT0 s.nonce
      nonce := s.nonce + 1
      acc := ⟨false, 0x000, 0x00000001, 0⟩
      cont := .mem rd .abort
      stage := .start }) ∧
  (∀ (s : State) (rd : Bool), s.cont = .mem rd .abort →
    let ended (calls : List TapCall) (moves : List Fsm) : State := { s with
      trace := calls.reverse ++ s.trace
      fsm := .idle
      fsmLog := moves.reverse ++ s.fsmLog
      t0 := Config.freeT0 s.nonce
      win := ⟨Config.freeWinSz (s.nonce + 1), Config.freeWinInc (s.nonce + 1), Config.freeWinA (s.nonce + 1),
        Config.freeWinDone (s.nonce + 1), Config.freeWinUnits (s.nonce + 1)⟩
      nonce := s.nonce + 2
      port := { s.port with rspCount := s.win.done * 2 ^ s.win.sz.toNat } }
    (s.stage = .flush →
      exec .swdFlush s = .next ((ended [.seqOut 0 8] [.idle]).completed .memoryFault)) ∧
    (s.stage = .ack → s.dp.variant = .jtag →
      exec .ackOk s = .next ((ended [] [.dataPhase, .idle]).completed .memoryFault)) ∧
    (s.stage = .ack →
      exec .ackFault s = .next ({ ended (s.ackCalls ++ s.nonOkCalls) [.faulted, .idle] with
        dp := { s.dp with fault := true } }.completed .memoryFault)))

/-- R134, R135, R136, R146: an access answered WAIT `k` times within the window and then OK succeeds with exactly `k +
1` attempts; answered WAIT until a clock reading is at or past the bound, it raises Timeout and sends nothing more. On
either link; the command is LOW_ACCESS_RD. Over JTAG with JTAG_POSTED the calls of an access are the model's choice (log
21). A free value for `t0` (R26) afterwards is the model's form of undefined (log 13). -/
def Obligations.BoundedRetry : Prop :=
  ∀ (s : State) (start : Word) (waits clk : List Word) (more tap : List TapReply),
    s.stage = .idle → s.dp.valid = true → s.cfg.flushOnNonOk = false →
    ¬ (s.argReg.getLsbD 8 = true ∧ s.dp.fault = true) →
    (∀ now ∈ waits, (now - start).toNat < s.cfg.waitTimeoutMs.toNat) →
    servesWaits s.dp.variant s.cfg waits.length s.tapIn more →
    let v := s.dp.variant
    let s1 := rawCacheEffects s.argReg false s.port.argValue s
    let attempt := attemptCalls v s.cfg true s.argReg s.port.argValue
    let calls := openingCalls v s.argReg ++
      (List.replicate waits.length (attempt ++ retryCalls v s.cfg s.argReg)).flatten
    let moves := (List.replicate waits.length [Fsm.requestSent, Fsm.retrying]).flatten
    (∀ val, s.clkIn = start :: waits ++ clk → servesOk v s.cfg true val more tap →
      exec .lowAccessRd s = .next ({ s1.afterCalls (calls ++ attempt ++ dataCalls v true 0)
        (moves ++ [Fsm.requestSent, .dataPhase, .idle]) tap clk with
        port := { s.port with rspValue := val } }.completed .ok)) ∧
    (∀ now, s.clkIn = start :: waits ++ now :: clk → servesAck v s.cfg 0b010 more tap →
      s.cfg.waitTimeoutMs.toNat ≤ (now - start).toNat →
      exec .lowAccessRd s = .next ((invalidateAll (s1.afterCalls (calls ++ attempt ++ [.nowMs])
        (moves ++ [Fsm.requestSent, .retrying, .timeoutError, .idle]) tap clk)).completed .timeout))

end Statements
end

