-- ==== Sys2Proof/Laws/Decode.lean ====
section
/-! SUPPORT. What the decoder reads from each word the engine composes or takes, and which meaning runs it. -/

namespace Sys2Proof

/-- The ACK row of three bits (R93). -/
def ackInstr (b : BitVec 3) : Instr :=
  match b.toFin with
  | 0 => .ackInvalid0
  | 1 => .ackOk
  | 2 => .ackWait
  | 3 => .ackInvalid3
  | 4 => .ackFault
  | 5 => .ackInvalid5
  | 6 => .ackInvalid6
  | 7 => .ackInvalid7

/-- Two-bit values are four. -/
theorem bits2_cases (a : BitVec 2) : a = 0 ∨ a = 1 ∨ a = 2 ∨ a = 3 := by
  revert a
  decide

/-- Three-bit values are eight. -/
theorem bits3_cases (b : BitVec 3) :
    b = 0 ∨ b = 1 ∨ b = 2 ∨ b = 3 ∨ b = 4 ∨ b = 5 ∨ b = 6 ∨ b = 7 := by
  revert b
  decide

theorem decode_request (ap rnw : Bool) (a : BitVec 2) :
    decode .swdReq ((requestByte ap rnw a).setWidth 40) = .ok (swdRequestInstr ap rnw a) := by
  rcases bits2_cases a with rfl | rfl | rfl | rfl <;> cases ap <;> cases rnw <;> rfl

theorem decode_ack (b : BitVec 3) : decode .ack (b.setWidth 40) = .ok (ackInstr b) := by
  rcases bits3_cases b with rfl | rfl | rfl | rfl | rfl | rfl | rfl | rfl <;> rfl

theorem decode_ir_apacc : decode .jtagIr (Config.irApacc.setWidth 40) = .ok .jtagIrApacc := rfl

theorem decode_ir_dpacc : decode .jtagIr (Config.irDpacc.setWidth 40) = .ok .jtagIrDpacc := rfl

theorem decode_flush : decode .swdFlush (Config.flushValue.setWidth 40) = .ok .swdFlush := rfl

theorem decode_switch : decode .lineReset (Config.switchSeq.setWidth 40) = .ok .swdJtag2Swd := rfl

/-- The bits of a data phase: 32 of data, then the parity (R94). -/
theorem dataPhaseWord_bit (v : Word) (p : Bool) (i : Nat) :
    (dataPhaseWord v p).getLsbD i = if i < 32 then v.getLsbD i else (BitVec.ofBool p).getLsbD (i - 32) := by
  show (BitVec.ofBool p ++ v : BitVec (1 + 32)).getLsbD i = _
  rw [BitVec.getLsbD_append]

/-- The bits of a DR word: RnW, two of address, 32 of data (R98). -/
theorem jtagDrWord_bit (rnw : Bool) (a : BitVec 2) (d : Word) (i : Nat) :
    (jtagDrWord rnw a d).getLsbD i =
      if i < 1 then (BitVec.ofBool rnw).getLsbD i else if i - 1 < 2 then a.getLsbD (i - 1) else d.getLsbD (i - 1 - 2) := by
  show (d ++ a ++ BitVec.ofBool rnw : BitVec (32 + 2 + 1)).getLsbD i = _
  rw [BitVec.getLsbD_append, BitVec.getLsbD_append]

theorem dataPhaseWord_fields (v : Word) (p : Bool) :
    ((dataPhaseWord v p).setWidth 40).extractLsb' 33 7 = 0 ∧
    ((dataPhaseWord v p).setWidth 40).extractLsb' 0 32 = v ∧
    ((dataPhaseWord v p).setWidth 40).getLsbD 32 = p := by
  refine ⟨?_, ?_, ?_⟩
  · apply BitVec.eq_of_getLsbD_eq
    intro i hi
    simp only [BitVec.getLsbD_extractLsb', BitVec.getLsbD_setWidth, dataPhaseWord_bit]
    rw [if_neg (by omega), BitVec.getLsbD_of_ge _ _ (by omega)]
    simp
  · apply BitVec.eq_of_getLsbD_eq
    intro i hi
    simp only [BitVec.getLsbD_extractLsb', BitVec.getLsbD_setWidth, dataPhaseWord_bit]
    rw [if_pos (by omega)]
    simp [hi, show i < 40 by omega]
  · rw [BitVec.getLsbD_setWidth, dataPhaseWord_bit]
    cases p <;> rfl

theorem decode_data (v : Word) (p : Bool) :
    decode .swdData ((dataPhaseWord v p).setWidth 40) = .ok (.swdData v p) := by
  obtain ⟨h1, h2, h3⟩ := dataPhaseWord_fields v p
  simp only [decode, decodeData]
  rw [h1, h2, h3]
  simp

/-- The fields of a DR word (R98). -/
theorem jtagDrWord_fields (rnw : Bool) (a : BitVec 2) (d : Word) :
    ((jtagDrWord rnw a d).setWidth 40).extractLsb' 35 5 = 0 ∧
    ((jtagDrWord rnw a d).setWidth 40).getLsbD 0 = rnw ∧
    ((jtagDrWord rnw a d).setWidth 40).extractLsb' 1 2 = a ∧
    ((jtagDrWord rnw a d).setWidth 40).extractLsb' 3 32 = d := by
  refine ⟨?_, ?_, ?_, ?_⟩
  · apply BitVec.eq_of_getLsbD_eq
    intro i hi
    simp only [BitVec.getLsbD_extractLsb', BitVec.getLsbD_setWidth, jtagDrWord_bit]
    rw [if_neg (by omega), if_neg (by omega), BitVec.getLsbD_of_ge _ _ (by omega)]
    simp
  · rw [BitVec.getLsbD_setWidth, jtagDrWord_bit]
    cases rnw <;> rfl
  · apply BitVec.eq_of_getLsbD_eq
    intro i hi
    simp only [BitVec.getLsbD_extractLsb', BitVec.getLsbD_setWidth, jtagDrWord_bit]
    rw [if_neg (by omega), if_pos (by omega)]
    simp [hi, show 1 + i < 40 by omega]
  · apply BitVec.eq_of_getLsbD_eq
    intro i hi
    simp only [BitVec.getLsbD_extractLsb', BitVec.getLsbD_setWidth, jtagDrWord_bit]
    rw [if_neg (by omega), if_neg (by omega), show 3 + i - 1 - 2 = i by omega]
    simp [hi, show 3 + i < 40 by omega]

theorem decode_scan (ap rnw : Bool) (a : BitVec 2) (d : Word) (h : rnw = true → d = 0) :
    decode (.jtagDr ap) ((jtagDrWord rnw a d).setWidth 40) = .ok (jtagScanInstr ap rnw a d) := by
  obtain ⟨h1, h2, h3, h4⟩ := jtagDrWord_fields rnw a d
  simp only [decode, decodeScan]
  rw [h1, h2, h3, h4]
  cases rnw <;> simp_all

end Sys2Proof
end

