-- ==== Sys2Proof/Laws/ApTable.lean ====
section
/-! SUPPORT. The AP table: what record `i` is after each operation, and that a table is its 256 records. -/

namespace Sys2Proof.Machine.ApTable

variable (t u : Vector AccessPort Config.apselCount) (i k : Byte)

/-- Two tables with the same records are the same. -/
theorem ext_get {t u : Vector AccessPort Config.apselCount} (h : ∀ i, get t i = get u i) : t = u := by
  refine Vector.ext fun j hj => ?_
  have hj' : (BitVec.ofNat 8 j).toNat = j := by
    rw [BitVec.toNat_ofNat]
    exact Nat.mod_eq_of_lt hj
  have := h (BitVec.ofNat 8 j)
  simpa [get, hj'] using this

@[simp] theorem get_tabulate (f : Byte → AccessPort) : get (tabulate f) i = f i := by
  simp [get, tabulate]

@[simp] theorem get_map (f : AccessPort → AccessPort) : get (map f t) i = f (get t i) := by
  simp [get, map]

@[simp] theorem get_change_same (f : AccessPort → AccessPort) : get (change i f t) i = f (get t i) := by
  simp [get, change]

theorem get_change_other (f : AccessPort → AccessPort) (hk : i ≠ k) : get (change i f t) k = get t k := by
  have h : i.toNat ≠ k.toNat := fun h => hk (BitVec.eq_of_toNat_eq h)
  simp [get, change, h]

/-- What every record is after a change of one. -/
theorem get_change (f : AccessPort → AccessPort) :
    get (change i f t) k = if i = k then f (get t k) else get t k := by
  split
  · next h => subst h; exact get_change_same t i f
  · next h => exact get_change_other t i k f h

theorem map_eq_tabulate (f : AccessPort → AccessPort) : map f t = tabulate (fun i => f (get t i)) :=
  ext_get fun i => by simp

/-- At reset every record is absent, without caches (R50). -/
theorem get_replicate (p : AccessPort) : get (Vector.replicate Config.apselCount p) i = p := by
  simp [get]

end Sys2Proof.Machine.ApTable
end

