-- ==== Sys2Proof/Laws/State.lean ====
section
/-! SUPPORT. What each field update does to each field: the simp set that keeps later proofs from unfolding a record
update. -/

namespace Sys2Proof.Machine.State

variable (s : State)

section
variable (v : DebugPort)
@[simp] theorem setDp_dp : (s.setDp v).dp = v := rfl
@[simp] theorem setDp_aps : (s.setDp v).aps = s.aps := rfl
@[simp] theorem setDp_win : (s.setDp v).win = s.win := rfl
@[simp] theorem setDp_fsm : (s.setDp v).fsm = s.fsm := rfl
@[simp] theorem setDp_t0 : (s.setDp v).t0 = s.t0 := rfl
@[simp] theorem setDp_port : (s.setDp v).port = s.port := rfl
@[simp] theorem setDp_hbuf : (s.setDp v).hbuf = s.hbuf := rfl
@[simp] theorem setDp_cfg : (s.setDp v).cfg = s.cfg := rfl
@[simp] theorem setDp_stage : (s.setDp v).stage = s.stage := rfl
@[simp] theorem setDp_acc : (s.setDp v).acc = s.acc := rfl
@[simp] theorem setDp_cont : (s.setDp v).cont = s.cont := rfl
@[simp] theorem setDp_trace : (s.setDp v).trace = s.trace := rfl
@[simp] theorem setDp_fsmLog : (s.setDp v).fsmLog = s.fsmLog := rfl
@[simp] theorem setDp_tapIn : (s.setDp v).tapIn = s.tapIn := rfl
@[simp] theorem setDp_clkIn : (s.setDp v).clkIn = s.clkIn := rfl
@[simp] theorem setDp_hostIn : (s.setDp v).hostIn = s.hostIn := rfl
@[simp] theorem setDp_nonce : (s.setDp v).nonce = s.nonce := rfl
end

section
variable (v : Vector AccessPort Config.apselCount)
@[simp] theorem setAps_dp : (s.setAps v).dp = s.dp := rfl
@[simp] theorem setAps_aps : (s.setAps v).aps = v := rfl
@[simp] theorem setAps_win : (s.setAps v).win = s.win := rfl
@[simp] theorem setAps_fsm : (s.setAps v).fsm = s.fsm := rfl
@[simp] theorem setAps_t0 : (s.setAps v).t0 = s.t0 := rfl
@[simp] theorem setAps_port : (s.setAps v).port = s.port := rfl
@[simp] theorem setAps_hbuf : (s.setAps v).hbuf = s.hbuf := rfl
@[simp] theorem setAps_cfg : (s.setAps v).cfg = s.cfg := rfl
@[simp] theorem setAps_stage : (s.setAps v).stage = s.stage := rfl
@[simp] theorem setAps_acc : (s.setAps v).acc = s.acc := rfl
@[simp] theorem setAps_cont : (s.setAps v).cont = s.cont := rfl
@[simp] theorem setAps_trace : (s.setAps v).trace = s.trace := rfl
@[simp] theorem setAps_fsmLog : (s.setAps v).fsmLog = s.fsmLog := rfl
@[simp] theorem setAps_tapIn : (s.setAps v).tapIn = s.tapIn := rfl
@[simp] theorem setAps_clkIn : (s.setAps v).clkIn = s.clkIn := rfl
@[simp] theorem setAps_hostIn : (s.setAps v).hostIn = s.hostIn := rfl
@[simp] theorem setAps_nonce : (s.setAps v).nonce = s.nonce := rfl
end

section
variable (v : Window)
@[simp] theorem setWin_dp : (s.setWin v).dp = s.dp := rfl
@[simp] theorem setWin_aps : (s.setWin v).aps = s.aps := rfl
@[simp] theorem setWin_win : (s.setWin v).win = v := rfl
@[simp] theorem setWin_fsm : (s.setWin v).fsm = s.fsm := rfl
@[simp] theorem setWin_t0 : (s.setWin v).t0 = s.t0 := rfl
@[simp] theorem setWin_port : (s.setWin v).port = s.port := rfl
@[simp] theorem setWin_hbuf : (s.setWin v).hbuf = s.hbuf := rfl
@[simp] theorem setWin_cfg : (s.setWin v).cfg = s.cfg := rfl
@[simp] theorem setWin_stage : (s.setWin v).stage = s.stage := rfl
@[simp] theorem setWin_acc : (s.setWin v).acc = s.acc := rfl
@[simp] theorem setWin_cont : (s.setWin v).cont = s.cont := rfl
@[simp] theorem setWin_trace : (s.setWin v).trace = s.trace := rfl
@[simp] theorem setWin_fsmLog : (s.setWin v).fsmLog = s.fsmLog := rfl
@[simp] theorem setWin_tapIn : (s.setWin v).tapIn = s.tapIn := rfl
@[simp] theorem setWin_clkIn : (s.setWin v).clkIn = s.clkIn := rfl
@[simp] theorem setWin_hostIn : (s.setWin v).hostIn = s.hostIn := rfl
@[simp] theorem setWin_nonce : (s.setWin v).nonce = s.nonce := rfl
end

section
variable (v : Fsm)
@[simp] theorem setFsm_dp : (s.setFsm v).dp = s.dp := rfl
@[simp] theorem setFsm_aps : (s.setFsm v).aps = s.aps := rfl
@[simp] theorem setFsm_win : (s.setFsm v).win = s.win := rfl
@[simp] theorem setFsm_fsm : (s.setFsm v).fsm = v := rfl
@[simp] theorem setFsm_t0 : (s.setFsm v).t0 = s.t0 := rfl
@[simp] theorem setFsm_port : (s.setFsm v).port = s.port := rfl
@[simp] theorem setFsm_hbuf : (s.setFsm v).hbuf = s.hbuf := rfl
@[simp] theorem setFsm_cfg : (s.setFsm v).cfg = s.cfg := rfl
@[simp] theorem setFsm_stage : (s.setFsm v).stage = s.stage := rfl
@[simp] theorem setFsm_acc : (s.setFsm v).acc = s.acc := rfl
@[simp] theorem setFsm_cont : (s.setFsm v).cont = s.cont := rfl
@[simp] theorem setFsm_trace : (s.setFsm v).trace = s.trace := rfl
@[simp] theorem setFsm_fsmLog : (s.setFsm v).fsmLog = s.fsmLog := rfl
@[simp] theorem setFsm_tapIn : (s.setFsm v).tapIn = s.tapIn := rfl
@[simp] theorem setFsm_clkIn : (s.setFsm v).clkIn = s.clkIn := rfl
@[simp] theorem setFsm_hostIn : (s.setFsm v).hostIn = s.hostIn := rfl
@[simp] theorem setFsm_nonce : (s.setFsm v).nonce = s.nonce := rfl
end

section
variable (v : Word)
@[simp] theorem setT0_dp : (s.setT0 v).dp = s.dp := rfl
@[simp] theorem setT0_aps : (s.setT0 v).aps = s.aps := rfl
@[simp] theorem setT0_win : (s.setT0 v).win = s.win := rfl
@[simp] theorem setT0_fsm : (s.setT0 v).fsm = s.fsm := rfl
@[simp] theorem setT0_t0 : (s.setT0 v).t0 = v := rfl
@[simp] theorem setT0_port : (s.setT0 v).port = s.port := rfl
@[simp] theorem setT0_hbuf : (s.setT0 v).hbuf = s.hbuf := rfl
@[simp] theorem setT0_cfg : (s.setT0 v).cfg = s.cfg := rfl
@[simp] theorem setT0_stage : (s.setT0 v).stage = s.stage := rfl
@[simp] theorem setT0_acc : (s.setT0 v).acc = s.acc := rfl
@[simp] theorem setT0_cont : (s.setT0 v).cont = s.cont := rfl
@[simp] theorem setT0_trace : (s.setT0 v).trace = s.trace := rfl
@[simp] theorem setT0_fsmLog : (s.setT0 v).fsmLog = s.fsmLog := rfl
@[simp] theorem setT0_tapIn : (s.setT0 v).tapIn = s.tapIn := rfl
@[simp] theorem setT0_clkIn : (s.setT0 v).clkIn = s.clkIn := rfl
@[simp] theorem setT0_hostIn : (s.setT0 v).hostIn = s.hostIn := rfl
@[simp] theorem setT0_nonce : (s.setT0 v).nonce = s.nonce := rfl
end

section
variable (v : HostPort)
@[simp] theorem setPort_dp : (s.setPort v).dp = s.dp := rfl
@[simp] theorem setPort_aps : (s.setPort v).aps = s.aps := rfl
@[simp] theorem setPort_win : (s.setPort v).win = s.win := rfl
@[simp] theorem setPort_fsm : (s.setPort v).fsm = s.fsm := rfl
@[simp] theorem setPort_t0 : (s.setPort v).t0 = s.t0 := rfl
@[simp] theorem setPort_port : (s.setPort v).port = v := rfl
@[simp] theorem setPort_hbuf : (s.setPort v).hbuf = s.hbuf := rfl
@[simp] theorem setPort_cfg : (s.setPort v).cfg = s.cfg := rfl
@[simp] theorem setPort_stage : (s.setPort v).stage = s.stage := rfl
@[simp] theorem setPort_acc : (s.setPort v).acc = s.acc := rfl
@[simp] theorem setPort_cont : (s.setPort v).cont = s.cont := rfl
@[simp] theorem setPort_trace : (s.setPort v).trace = s.trace := rfl
@[simp] theorem setPort_fsmLog : (s.setPort v).fsmLog = s.fsmLog := rfl
@[simp] theorem setPort_tapIn : (s.setPort v).tapIn = s.tapIn := rfl
@[simp] theorem setPort_clkIn : (s.setPort v).clkIn = s.clkIn := rfl
@[simp] theorem setPort_hostIn : (s.setPort v).hostIn = s.hostIn := rfl
@[simp] theorem setPort_nonce : (s.setPort v).nonce = s.nonce := rfl
end

section
variable (v : List Host.Cell)
@[simp] theorem setHbuf_dp : (s.setHbuf v).dp = s.dp := rfl
@[simp] theorem setHbuf_aps : (s.setHbuf v).aps = s.aps := rfl
@[simp] theorem setHbuf_win : (s.setHbuf v).win = s.win := rfl
@[simp] theorem setHbuf_fsm : (s.setHbuf v).fsm = s.fsm := rfl
@[simp] theorem setHbuf_t0 : (s.setHbuf v).t0 = s.t0 := rfl
@[simp] theorem setHbuf_port : (s.setHbuf v).port = s.port := rfl
@[simp] theorem setHbuf_hbuf : (s.setHbuf v).hbuf = v := rfl
@[simp] theorem setHbuf_cfg : (s.setHbuf v).cfg = s.cfg := rfl
@[simp] theorem setHbuf_stage : (s.setHbuf v).stage = s.stage := rfl
@[simp] theorem setHbuf_acc : (s.setHbuf v).acc = s.acc := rfl
@[simp] theorem setHbuf_cont : (s.setHbuf v).cont = s.cont := rfl
@[simp] theorem setHbuf_trace : (s.setHbuf v).trace = s.trace := rfl
@[simp] theorem setHbuf_fsmLog : (s.setHbuf v).fsmLog = s.fsmLog := rfl
@[simp] theorem setHbuf_tapIn : (s.setHbuf v).tapIn = s.tapIn := rfl
@[simp] theorem setHbuf_clkIn : (s.setHbuf v).clkIn = s.clkIn := rfl
@[simp] theorem setHbuf_hostIn : (s.setHbuf v).hostIn = s.hostIn := rfl
@[simp] theorem setHbuf_nonce : (s.setHbuf v).nonce = s.nonce := rfl
end

section
variable (v : Stage)
@[simp] theorem setStage_dp : (s.setStage v).dp = s.dp := rfl
@[simp] theorem setStage_aps : (s.setStage v).aps = s.aps := rfl
@[simp] theorem setStage_win : (s.setStage v).win = s.win := rfl
@[simp] theorem setStage_fsm : (s.setStage v).fsm = s.fsm := rfl
@[simp] theorem setStage_t0 : (s.setStage v).t0 = s.t0 := rfl
@[simp] theorem setStage_port : (s.setStage v).port = s.port := rfl
@[simp] theorem setStage_hbuf : (s.setStage v).hbuf = s.hbuf := rfl
@[simp] theorem setStage_cfg : (s.setStage v).cfg = s.cfg := rfl
@[simp] theorem setStage_stage : (s.setStage v).stage = v := rfl
@[simp] theorem setStage_acc : (s.setStage v).acc = s.acc := rfl
@[simp] theorem setStage_cont : (s.setStage v).cont = s.cont := rfl
@[simp] theorem setStage_trace : (s.setStage v).trace = s.trace := rfl
@[simp] theorem setStage_fsmLog : (s.setStage v).fsmLog = s.fsmLog := rfl
@[simp] theorem setStage_tapIn : (s.setStage v).tapIn = s.tapIn := rfl
@[simp] theorem setStage_clkIn : (s.setStage v).clkIn = s.clkIn := rfl
@[simp] theorem setStage_hostIn : (s.setStage v).hostIn = s.hostIn := rfl
@[simp] theorem setStage_nonce : (s.setStage v).nonce = s.nonce := rfl
end

section
variable (v : Access)
@[simp] theorem setAcc_dp : (s.setAcc v).dp = s.dp := rfl
@[simp] theorem setAcc_aps : (s.setAcc v).aps = s.aps := rfl
@[simp] theorem setAcc_win : (s.setAcc v).win = s.win := rfl
@[simp] theorem setAcc_fsm : (s.setAcc v).fsm = s.fsm := rfl
@[simp] theorem setAcc_t0 : (s.setAcc v).t0 = s.t0 := rfl
@[simp] theorem setAcc_port : (s.setAcc v).port = s.port := rfl
@[simp] theorem setAcc_hbuf : (s.setAcc v).hbuf = s.hbuf := rfl
@[simp] theorem setAcc_cfg : (s.setAcc v).cfg = s.cfg := rfl
@[simp] theorem setAcc_stage : (s.setAcc v).stage = s.stage := rfl
@[simp] theorem setAcc_acc : (s.setAcc v).acc = v := rfl
@[simp] theorem setAcc_cont : (s.setAcc v).cont = s.cont := rfl
@[simp] theorem setAcc_trace : (s.setAcc v).trace = s.trace := rfl
@[simp] theorem setAcc_fsmLog : (s.setAcc v).fsmLog = s.fsmLog := rfl
@[simp] theorem setAcc_tapIn : (s.setAcc v).tapIn = s.tapIn := rfl
@[simp] theorem setAcc_clkIn : (s.setAcc v).clkIn = s.clkIn := rfl
@[simp] theorem setAcc_hostIn : (s.setAcc v).hostIn = s.hostIn := rfl
@[simp] theorem setAcc_nonce : (s.setAcc v).nonce = s.nonce := rfl
end

section
variable (v : Cont)
@[simp] theorem setCont_dp : (s.setCont v).dp = s.dp := rfl
@[simp] theorem setCont_aps : (s.setCont v).aps = s.aps := rfl
@[simp] theorem setCont_win : (s.setCont v).win = s.win := rfl
@[simp] theorem setCont_fsm : (s.setCont v).fsm = s.fsm := rfl
@[simp] theorem setCont_t0 : (s.setCont v).t0 = s.t0 := rfl
@[simp] theorem setCont_port : (s.setCont v).port = s.port := rfl
@[simp] theorem setCont_hbuf : (s.setCont v).hbuf = s.hbuf := rfl
@[simp] theorem setCont_cfg : (s.setCont v).cfg = s.cfg := rfl
@[simp] theorem setCont_stage : (s.setCont v).stage = s.stage := rfl
@[simp] theorem setCont_acc : (s.setCont v).acc = s.acc := rfl
@[simp] theorem setCont_cont : (s.setCont v).cont = v := rfl
@[simp] theorem setCont_trace : (s.setCont v).trace = s.trace := rfl
@[simp] theorem setCont_fsmLog : (s.setCont v).fsmLog = s.fsmLog := rfl
@[simp] theorem setCont_tapIn : (s.setCont v).tapIn = s.tapIn := rfl
@[simp] theorem setCont_clkIn : (s.setCont v).clkIn = s.clkIn := rfl
@[simp] theorem setCont_hostIn : (s.setCont v).hostIn = s.hostIn := rfl
@[simp] theorem setCont_nonce : (s.setCont v).nonce = s.nonce := rfl
end

section
variable (v : List TapCall)
@[simp] theorem setTrace_dp : (s.setTrace v).dp = s.dp := rfl
@[simp] theorem setTrace_aps : (s.setTrace v).aps = s.aps := rfl
@[simp] theorem setTrace_win : (s.setTrace v).win = s.win := rfl
@[simp] theorem setTrace_fsm : (s.setTrace v).fsm = s.fsm := rfl
@[simp] theorem setTrace_t0 : (s.setTrace v).t0 = s.t0 := rfl
@[simp] theorem setTrace_port : (s.setTrace v).port = s.port := rfl
@[simp] theorem setTrace_hbuf : (s.setTrace v).hbuf = s.hbuf := rfl
@[simp] theorem setTrace_cfg : (s.setTrace v).cfg = s.cfg := rfl
@[simp] theorem setTrace_stage : (s.setTrace v).stage = s.stage := rfl
@[simp] theorem setTrace_acc : (s.setTrace v).acc = s.acc := rfl
@[simp] theorem setTrace_cont : (s.setTrace v).cont = s.cont := rfl
@[simp] theorem setTrace_trace : (s.setTrace v).trace = v := rfl
@[simp] theorem setTrace_fsmLog : (s.setTrace v).fsmLog = s.fsmLog := rfl
@[simp] theorem setTrace_tapIn : (s.setTrace v).tapIn = s.tapIn := rfl
@[simp] theorem setTrace_clkIn : (s.setTrace v).clkIn = s.clkIn := rfl
@[simp] theorem setTrace_hostIn : (s.setTrace v).hostIn = s.hostIn := rfl
@[simp] theorem setTrace_nonce : (s.setTrace v).nonce = s.nonce := rfl
end

section
variable (v : List Fsm)
@[simp] theorem setFsmLog_dp : (s.setFsmLog v).dp = s.dp := rfl
@[simp] theorem setFsmLog_aps : (s.setFsmLog v).aps = s.aps := rfl
@[simp] theorem setFsmLog_win : (s.setFsmLog v).win = s.win := rfl
@[simp] theorem setFsmLog_fsm : (s.setFsmLog v).fsm = s.fsm := rfl
@[simp] theorem setFsmLog_t0 : (s.setFsmLog v).t0 = s.t0 := rfl
@[simp] theorem setFsmLog_port : (s.setFsmLog v).port = s.port := rfl
@[simp] theorem setFsmLog_hbuf : (s.setFsmLog v).hbuf = s.hbuf := rfl
@[simp] theorem setFsmLog_cfg : (s.setFsmLog v).cfg = s.cfg := rfl
@[simp] theorem setFsmLog_stage : (s.setFsmLog v).stage = s.stage := rfl
@[simp] theorem setFsmLog_acc : (s.setFsmLog v).acc = s.acc := rfl
@[simp] theorem setFsmLog_cont : (s.setFsmLog v).cont = s.cont := rfl
@[simp] theorem setFsmLog_trace : (s.setFsmLog v).trace = s.trace := rfl
@[simp] theorem setFsmLog_fsmLog : (s.setFsmLog v).fsmLog = v := rfl
@[simp] theorem setFsmLog_tapIn : (s.setFsmLog v).tapIn = s.tapIn := rfl
@[simp] theorem setFsmLog_clkIn : (s.setFsmLog v).clkIn = s.clkIn := rfl
@[simp] theorem setFsmLog_hostIn : (s.setFsmLog v).hostIn = s.hostIn := rfl
@[simp] theorem setFsmLog_nonce : (s.setFsmLog v).nonce = s.nonce := rfl
end

section
variable (v : List TapReply)
@[simp] theorem setTapIn_dp : (s.setTapIn v).dp = s.dp := rfl
@[simp] theorem setTapIn_aps : (s.setTapIn v).aps = s.aps := rfl
@[simp] theorem setTapIn_win : (s.setTapIn v).win = s.win := rfl
@[simp] theorem setTapIn_fsm : (s.setTapIn v).fsm = s.fsm := rfl
@[simp] theorem setTapIn_t0 : (s.setTapIn v).t0 = s.t0 := rfl
@[simp] theorem setTapIn_port : (s.setTapIn v).port = s.port := rfl
@[simp] theorem setTapIn_hbuf : (s.setTapIn v).hbuf = s.hbuf := rfl
@[simp] theorem setTapIn_cfg : (s.setTapIn v).cfg = s.cfg := rfl
@[simp] theorem setTapIn_stage : (s.setTapIn v).stage = s.stage := rfl
@[simp] theorem setTapIn_acc : (s.setTapIn v).acc = s.acc := rfl
@[simp] theorem setTapIn_cont : (s.setTapIn v).cont = s.cont := rfl
@[simp] theorem setTapIn_trace : (s.setTapIn v).trace = s.trace := rfl
@[simp] theorem setTapIn_fsmLog : (s.setTapIn v).fsmLog = s.fsmLog := rfl
@[simp] theorem setTapIn_tapIn : (s.setTapIn v).tapIn = v := rfl
@[simp] theorem setTapIn_clkIn : (s.setTapIn v).clkIn = s.clkIn := rfl
@[simp] theorem setTapIn_hostIn : (s.setTapIn v).hostIn = s.hostIn := rfl
@[simp] theorem setTapIn_nonce : (s.setTapIn v).nonce = s.nonce := rfl
end

section
variable (v : List Word)
@[simp] theorem setClkIn_dp : (s.setClkIn v).dp = s.dp := rfl
@[simp] theorem setClkIn_aps : (s.setClkIn v).aps = s.aps := rfl
@[simp] theorem setClkIn_win : (s.setClkIn v).win = s.win := rfl
@[simp] theorem setClkIn_fsm : (s.setClkIn v).fsm = s.fsm := rfl
@[simp] theorem setClkIn_t0 : (s.setClkIn v).t0 = s.t0 := rfl
@[simp] theorem setClkIn_port : (s.setClkIn v).port = s.port := rfl
@[simp] theorem setClkIn_hbuf : (s.setClkIn v).hbuf = s.hbuf := rfl
@[simp] theorem setClkIn_cfg : (s.setClkIn v).cfg = s.cfg := rfl
@[simp] theorem setClkIn_stage : (s.setClkIn v).stage = s.stage := rfl
@[simp] theorem setClkIn_acc : (s.setClkIn v).acc = s.acc := rfl
@[simp] theorem setClkIn_cont : (s.setClkIn v).cont = s.cont := rfl
@[simp] theorem setClkIn_trace : (s.setClkIn v).trace = s.trace := rfl
@[simp] theorem setClkIn_fsmLog : (s.setClkIn v).fsmLog = s.fsmLog := rfl
@[simp] theorem setClkIn_tapIn : (s.setClkIn v).tapIn = s.tapIn := rfl
@[simp] theorem setClkIn_clkIn : (s.setClkIn v).clkIn = v := rfl
@[simp] theorem setClkIn_hostIn : (s.setClkIn v).hostIn = s.hostIn := rfl
@[simp] theorem setClkIn_nonce : (s.setClkIn v).nonce = s.nonce := rfl
end

section
variable (v : List HostAction)
@[simp] theorem setHostIn_dp : (s.setHostIn v).dp = s.dp := rfl
@[simp] theorem setHostIn_aps : (s.setHostIn v).aps = s.aps := rfl
@[simp] theorem setHostIn_win : (s.setHostIn v).win = s.win := rfl
@[simp] theorem setHostIn_fsm : (s.setHostIn v).fsm = s.fsm := rfl
@[simp] theorem setHostIn_t0 : (s.setHostIn v).t0 = s.t0 := rfl
@[simp] theorem setHostIn_port : (s.setHostIn v).port = s.port := rfl
@[simp] theorem setHostIn_hbuf : (s.setHostIn v).hbuf = s.hbuf := rfl
@[simp] theorem setHostIn_cfg : (s.setHostIn v).cfg = s.cfg := rfl
@[simp] theorem setHostIn_stage : (s.setHostIn v).stage = s.stage := rfl
@[simp] theorem setHostIn_acc : (s.setHostIn v).acc = s.acc := rfl
@[simp] theorem setHostIn_cont : (s.setHostIn v).cont = s.cont := rfl
@[simp] theorem setHostIn_trace : (s.setHostIn v).trace = s.trace := rfl
@[simp] theorem setHostIn_fsmLog : (s.setHostIn v).fsmLog = s.fsmLog := rfl
@[simp] theorem setHostIn_tapIn : (s.setHostIn v).tapIn = s.tapIn := rfl
@[simp] theorem setHostIn_clkIn : (s.setHostIn v).clkIn = s.clkIn := rfl
@[simp] theorem setHostIn_hostIn : (s.setHostIn v).hostIn = v := rfl
@[simp] theorem setHostIn_nonce : (s.setHostIn v).nonce = s.nonce := rfl
end

section
variable (v : Nat)
@[simp] theorem setNonce_dp : (s.setNonce v).dp = s.dp := rfl
@[simp] theorem setNonce_aps : (s.setNonce v).aps = s.aps := rfl
@[simp] theorem setNonce_win : (s.setNonce v).win = s.win := rfl
@[simp] theorem setNonce_fsm : (s.setNonce v).fsm = s.fsm := rfl
@[simp] theorem setNonce_t0 : (s.setNonce v).t0 = s.t0 := rfl
@[simp] theorem setNonce_port : (s.setNonce v).port = s.port := rfl
@[simp] theorem setNonce_hbuf : (s.setNonce v).hbuf = s.hbuf := rfl
@[simp] theorem setNonce_cfg : (s.setNonce v).cfg = s.cfg := rfl
@[simp] theorem setNonce_stage : (s.setNonce v).stage = s.stage := rfl
@[simp] theorem setNonce_acc : (s.setNonce v).acc = s.acc := rfl
@[simp] theorem setNonce_cont : (s.setNonce v).cont = s.cont := rfl
@[simp] theorem setNonce_trace : (s.setNonce v).trace = s.trace := rfl
@[simp] theorem setNonce_fsmLog : (s.setNonce v).fsmLog = s.fsmLog := rfl
@[simp] theorem setNonce_tapIn : (s.setNonce v).tapIn = s.tapIn := rfl
@[simp] theorem setNonce_clkIn : (s.setNonce v).clkIn = s.clkIn := rfl
@[simp] theorem setNonce_hostIn : (s.setNonce v).hostIn = s.hostIn := rfl
@[simp] theorem setNonce_nonce : (s.setNonce v).nonce = v := rfl
end

end Sys2Proof.Machine.State
end

