-- ==== Sys2Proof/Laws/Ops.lean ====
section
/-! SUPPORT. What each shared operation does to each field of the state, once: later proofs cite these and unfold no
operation. -/

namespace Sys2Proof.Machine

variable (s : State)

section
variable (i : Byte) (c : Option Word)
@[simp] theorem setCswCache_dp : (setCswCache i c s).dp = s.dp := rfl
@[simp] theorem setCswCache_aps : (setCswCache i c s).aps = ApTable.change i (fun p => { p with cswCache := c }) s.aps := rfl
@[simp] theorem setCswCache_win : (setCswCache i c s).win = s.win := rfl
@[simp] theorem setCswCache_fsm : (setCswCache i c s).fsm = s.fsm := rfl
@[simp] theorem setCswCache_t0 : (setCswCache i c s).t0 = s.t0 := rfl
@[simp] theorem setCswCache_port : (setCswCache i c s).port = s.port := rfl
@[simp] theorem setCswCache_hbuf : (setCswCache i c s).hbuf = s.hbuf := rfl
@[simp] theorem setCswCache_cfg : (setCswCache i c s).cfg = s.cfg := rfl
@[simp] theorem setCswCache_stage : (setCswCache i c s).stage = s.stage := rfl
@[simp] theorem setCswCache_acc : (setCswCache i c s).acc = s.acc := rfl
@[simp] theorem setCswCache_cont : (setCswCache i c s).cont = s.cont := rfl
@[simp] theorem setCswCache_trace : (setCswCache i c s).trace = s.trace := rfl
@[simp] theorem setCswCache_fsmLog : (setCswCache i c s).fsmLog = s.fsmLog := rfl
@[simp] theorem setCswCache_tapIn : (setCswCache i c s).tapIn = s.tapIn := rfl
@[simp] theorem setCswCache_clkIn : (setCswCache i c s).clkIn = s.clkIn := rfl
@[simp] theorem setCswCache_hostIn : (setCswCache i c s).hostIn = s.hostIn := rfl
@[simp] theorem setCswCache_nonce : (setCswCache i c s).nonce = s.nonce := rfl
end

section
variable (i : Byte) (c : Option Word)
@[simp] theorem setTarCache_dp : (setTarCache i c s).dp = s.dp := rfl
@[simp] theorem setTarCache_aps : (setTarCache i c s).aps = ApTable.change i (fun p => { p with tarCache := c }) s.aps := rfl
@[simp] theorem setTarCache_win : (setTarCache i c s).win = s.win := rfl
@[simp] theorem setTarCache_fsm : (setTarCache i c s).fsm = s.fsm := rfl
@[simp] theorem setTarCache_t0 : (setTarCache i c s).t0 = s.t0 := rfl
@[simp] theorem setTarCache_port : (setTarCache i c s).port = s.port := rfl
@[simp] theorem setTarCache_hbuf : (setTarCache i c s).hbuf = s.hbuf := rfl
@[simp] theorem setTarCache_cfg : (setTarCache i c s).cfg = s.cfg := rfl
@[simp] theorem setTarCache_stage : (setTarCache i c s).stage = s.stage := rfl
@[simp] theorem setTarCache_acc : (setTarCache i c s).acc = s.acc := rfl
@[simp] theorem setTarCache_cont : (setTarCache i c s).cont = s.cont := rfl
@[simp] theorem setTarCache_trace : (setTarCache i c s).trace = s.trace := rfl
@[simp] theorem setTarCache_fsmLog : (setTarCache i c s).fsmLog = s.fsmLog := rfl
@[simp] theorem setTarCache_tapIn : (setTarCache i c s).tapIn = s.tapIn := rfl
@[simp] theorem setTarCache_clkIn : (setTarCache i c s).clkIn = s.clkIn := rfl
@[simp] theorem setTarCache_hostIn : (setTarCache i c s).hostIn = s.hostIn := rfl
@[simp] theorem setTarCache_nonce : (setTarCache i c s).nonce = s.nonce := rfl
end

section
@[simp] theorem invalidateApCaches_dp : (invalidateApCaches s).dp = s.dp := rfl
@[simp] theorem invalidateApCaches_aps : (invalidateApCaches s).aps = ApTable.map AccessPort.dropCaches s.aps := rfl
@[simp] theorem invalidateApCaches_win : (invalidateApCaches s).win = s.win := rfl
@[simp] theorem invalidateApCaches_fsm : (invalidateApCaches s).fsm = s.fsm := rfl
@[simp] theorem invalidateApCaches_t0 : (invalidateApCaches s).t0 = s.t0 := rfl
@[simp] theorem invalidateApCaches_port : (invalidateApCaches s).port = s.port := rfl
@[simp] theorem invalidateApCaches_hbuf : (invalidateApCaches s).hbuf = s.hbuf := rfl
@[simp] theorem invalidateApCaches_cfg : (invalidateApCaches s).cfg = s.cfg := rfl
@[simp] theorem invalidateApCaches_stage : (invalidateApCaches s).stage = s.stage := rfl
@[simp] theorem invalidateApCaches_acc : (invalidateApCaches s).acc = s.acc := rfl
@[simp] theorem invalidateApCaches_cont : (invalidateApCaches s).cont = s.cont := rfl
@[simp] theorem invalidateApCaches_trace : (invalidateApCaches s).trace = s.trace := rfl
@[simp] theorem invalidateApCaches_fsmLog : (invalidateApCaches s).fsmLog = s.fsmLog := rfl
@[simp] theorem invalidateApCaches_tapIn : (invalidateApCaches s).tapIn = s.tapIn := rfl
@[simp] theorem invalidateApCaches_clkIn : (invalidateApCaches s).clkIn = s.clkIn := rfl
@[simp] theorem invalidateApCaches_hostIn : (invalidateApCaches s).hostIn = s.hostIn := rfl
@[simp] theorem invalidateApCaches_nonce : (invalidateApCaches s).nonce = s.nonce := rfl
end

section
@[simp] theorem discardAps_dp : (discardAps s).dp = s.dp := rfl
@[simp] theorem discardAps_aps : (discardAps s).aps = ApTable.map AccessPort.discard s.aps := rfl
@[simp] theorem discardAps_win : (discardAps s).win = s.win := rfl
@[simp] theorem discardAps_fsm : (discardAps s).fsm = s.fsm := rfl
@[simp] theorem discardAps_t0 : (discardAps s).t0 = s.t0 := rfl
@[simp] theorem discardAps_port : (discardAps s).port = s.port := rfl
@[simp] theorem discardAps_hbuf : (discardAps s).hbuf = s.hbuf := rfl
@[simp] theorem discardAps_cfg : (discardAps s).cfg = s.cfg := rfl
@[simp] theorem discardAps_stage : (discardAps s).stage = s.stage := rfl
@[simp] theorem discardAps_acc : (discardAps s).acc = s.acc := rfl
@[simp] theorem discardAps_cont : (discardAps s).cont = s.cont := rfl
@[simp] theorem discardAps_trace : (discardAps s).trace = s.trace := rfl
@[simp] theorem discardAps_fsmLog : (discardAps s).fsmLog = s.fsmLog := rfl
@[simp] theorem discardAps_tapIn : (discardAps s).tapIn = s.tapIn := rfl
@[simp] theorem discardAps_clkIn : (discardAps s).clkIn = s.clkIn := rfl
@[simp] theorem discardAps_hostIn : (discardAps s).hostIn = s.hostIn := rfl
@[simp] theorem discardAps_nonce : (discardAps s).nonce = s.nonce := rfl
end

section
variable (c : Option (Byte × BitVec 4))
@[simp] theorem setSelCache_dp : (setSelCache c s).dp = { s.dp with selCache := c } := rfl
@[simp] theorem setSelCache_aps : (setSelCache c s).aps = s.aps := rfl
@[simp] theorem setSelCache_win : (setSelCache c s).win = s.win := rfl
@[simp] theorem setSelCache_fsm : (setSelCache c s).fsm = s.fsm := rfl
@[simp] theorem setSelCache_t0 : (setSelCache c s).t0 = s.t0 := rfl
@[simp] theorem setSelCache_port : (setSelCache c s).port = s.port := rfl
@[simp] theorem setSelCache_hbuf : (setSelCache c s).hbuf = s.hbuf := rfl
@[simp] theorem setSelCache_cfg : (setSelCache c s).cfg = s.cfg := rfl
@[simp] theorem setSelCache_stage : (setSelCache c s).stage = s.stage := rfl
@[simp] theorem setSelCache_acc : (setSelCache c s).acc = s.acc := rfl
@[simp] theorem setSelCache_cont : (setSelCache c s).cont = s.cont := rfl
@[simp] theorem setSelCache_trace : (setSelCache c s).trace = s.trace := rfl
@[simp] theorem setSelCache_fsmLog : (setSelCache c s).fsmLog = s.fsmLog := rfl
@[simp] theorem setSelCache_tapIn : (setSelCache c s).tapIn = s.tapIn := rfl
@[simp] theorem setSelCache_clkIn : (setSelCache c s).clkIn = s.clkIn := rfl
@[simp] theorem setSelCache_hostIn : (setSelCache c s).hostIn = s.hostIn := rfl
@[simp] theorem setSelCache_nonce : (setSelCache c s).nonce = s.nonce := rfl
end

section
@[simp] theorem invalidateAll_dp : (invalidateAll s).dp = { s.dp with selCache := none } := rfl
@[simp] theorem invalidateAll_aps : (invalidateAll s).aps = ApTable.map AccessPort.dropCaches s.aps := rfl
@[simp] theorem invalidateAll_win : (invalidateAll s).win = s.win := rfl
@[simp] theorem invalidateAll_fsm : (invalidateAll s).fsm = s.fsm := rfl
@[simp] theorem invalidateAll_t0 : (invalidateAll s).t0 = s.t0 := rfl
@[simp] theorem invalidateAll_port : (invalidateAll s).port = s.port := rfl
@[simp] theorem invalidateAll_hbuf : (invalidateAll s).hbuf = s.hbuf := rfl
@[simp] theorem invalidateAll_cfg : (invalidateAll s).cfg = s.cfg := rfl
@[simp] theorem invalidateAll_stage : (invalidateAll s).stage = s.stage := rfl
@[simp] theorem invalidateAll_acc : (invalidateAll s).acc = s.acc := rfl
@[simp] theorem invalidateAll_cont : (invalidateAll s).cont = s.cont := rfl
@[simp] theorem invalidateAll_trace : (invalidateAll s).trace = s.trace := rfl
@[simp] theorem invalidateAll_fsmLog : (invalidateAll s).fsmLog = s.fsmLog := rfl
@[simp] theorem invalidateAll_tapIn : (invalidateAll s).tapIn = s.tapIn := rfl
@[simp] theorem invalidateAll_clkIn : (invalidateAll s).clkIn = s.clkIn := rfl
@[simp] theorem invalidateAll_hostIn : (invalidateAll s).hostIn = s.hostIn := rfl
@[simp] theorem invalidateAll_nonce : (invalidateAll s).nonce = s.nonce := rfl
end

section
variable (c : TapCall)
@[simp] theorem logCall_dp : (logCall c s).dp = s.dp := rfl
@[simp] theorem logCall_aps : (logCall c s).aps = s.aps := rfl
@[simp] theorem logCall_win : (logCall c s).win = s.win := rfl
@[simp] theorem logCall_fsm : (logCall c s).fsm = s.fsm := rfl
@[simp] theorem logCall_t0 : (logCall c s).t0 = s.t0 := rfl
@[simp] theorem logCall_port : (logCall c s).port = s.port := rfl
@[simp] theorem logCall_hbuf : (logCall c s).hbuf = s.hbuf := rfl
@[simp] theorem logCall_cfg : (logCall c s).cfg = s.cfg := rfl
@[simp] theorem logCall_stage : (logCall c s).stage = s.stage := rfl
@[simp] theorem logCall_acc : (logCall c s).acc = s.acc := rfl
@[simp] theorem logCall_cont : (logCall c s).cont = s.cont := rfl
@[simp] theorem logCall_trace : (logCall c s).trace = c :: s.trace := rfl
@[simp] theorem logCall_fsmLog : (logCall c s).fsmLog = s.fsmLog := rfl
@[simp] theorem logCall_tapIn : (logCall c s).tapIn = s.tapIn := rfl
@[simp] theorem logCall_clkIn : (logCall c s).clkIn = s.clkIn := rfl
@[simp] theorem logCall_hostIn : (logCall c s).hostIn = s.hostIn := rfl
@[simp] theorem logCall_nonce : (logCall c s).nonce = s.nonce := rfl
end

section
variable (n : Nat) (c : TapCall)
@[simp] theorem logCalls_dp : (logCalls n c s).dp = s.dp := rfl
@[simp] theorem logCalls_aps : (logCalls n c s).aps = s.aps := rfl
@[simp] theorem logCalls_win : (logCalls n c s).win = s.win := rfl
@[simp] theorem logCalls_fsm : (logCalls n c s).fsm = s.fsm := rfl
@[simp] theorem logCalls_t0 : (logCalls n c s).t0 = s.t0 := rfl
@[simp] theorem logCalls_port : (logCalls n c s).port = s.port := rfl
@[simp] theorem logCalls_hbuf : (logCalls n c s).hbuf = s.hbuf := rfl
@[simp] theorem logCalls_cfg : (logCalls n c s).cfg = s.cfg := rfl
@[simp] theorem logCalls_stage : (logCalls n c s).stage = s.stage := rfl
@[simp] theorem logCalls_acc : (logCalls n c s).acc = s.acc := rfl
@[simp] theorem logCalls_cont : (logCalls n c s).cont = s.cont := rfl
@[simp] theorem logCalls_trace : (logCalls n c s).trace = List.replicate n c ++ s.trace := rfl
@[simp] theorem logCalls_fsmLog : (logCalls n c s).fsmLog = s.fsmLog := rfl
@[simp] theorem logCalls_tapIn : (logCalls n c s).tapIn = s.tapIn := rfl
@[simp] theorem logCalls_clkIn : (logCalls n c s).clkIn = s.clkIn := rfl
@[simp] theorem logCalls_hostIn : (logCalls n c s).hostIn = s.hostIn := rfl
@[simp] theorem logCalls_nonce : (logCalls n c s).nonce = s.nonce := rfl
end

section
variable (f : Fsm)
@[simp] theorem moveFsm_dp : (moveFsm f s).dp = s.dp := rfl
@[simp] theorem moveFsm_aps : (moveFsm f s).aps = s.aps := rfl
@[simp] theorem moveFsm_win : (moveFsm f s).win = s.win := rfl
@[simp] theorem moveFsm_fsm : (moveFsm f s).fsm = f := rfl
@[simp] theorem moveFsm_t0 : (moveFsm f s).t0 = s.t0 := rfl
@[simp] theorem moveFsm_port : (moveFsm f s).port = s.port := rfl
@[simp] theorem moveFsm_hbuf : (moveFsm f s).hbuf = s.hbuf := rfl
@[simp] theorem moveFsm_cfg : (moveFsm f s).cfg = s.cfg := rfl
@[simp] theorem moveFsm_stage : (moveFsm f s).stage = s.stage := rfl
@[simp] theorem moveFsm_acc : (moveFsm f s).acc = s.acc := rfl
@[simp] theorem moveFsm_cont : (moveFsm f s).cont = s.cont := rfl
@[simp] theorem moveFsm_trace : (moveFsm f s).trace = s.trace := rfl
@[simp] theorem moveFsm_fsmLog : (moveFsm f s).fsmLog = f :: s.fsmLog := rfl
@[simp] theorem moveFsm_tapIn : (moveFsm f s).tapIn = s.tapIn := rfl
@[simp] theorem moveFsm_clkIn : (moveFsm f s).clkIn = s.clkIn := rfl
@[simp] theorem moveFsm_hostIn : (moveFsm f s).hostIn = s.hostIn := rfl
@[simp] theorem moveFsm_nonce : (moveFsm f s).nonce = s.nonce := rfl
end

section
variable (r : Status)
@[simp] theorem setStatus_dp : (setStatus r s).dp = s.dp := rfl
@[simp] theorem setStatus_aps : (setStatus r s).aps = s.aps := rfl
@[simp] theorem setStatus_win : (setStatus r s).win = s.win := rfl
@[simp] theorem setStatus_fsm : (setStatus r s).fsm = s.fsm := rfl
@[simp] theorem setStatus_t0 : (setStatus r s).t0 = s.t0 := rfl
@[simp] theorem setStatus_port : (setStatus r s).port = { s.port with rspStatus := r.code } := rfl
@[simp] theorem setStatus_hbuf : (setStatus r s).hbuf = s.hbuf := rfl
@[simp] theorem setStatus_cfg : (setStatus r s).cfg = s.cfg := rfl
@[simp] theorem setStatus_stage : (setStatus r s).stage = s.stage := rfl
@[simp] theorem setStatus_acc : (setStatus r s).acc = s.acc := rfl
@[simp] theorem setStatus_cont : (setStatus r s).cont = s.cont := rfl
@[simp] theorem setStatus_trace : (setStatus r s).trace = s.trace := rfl
@[simp] theorem setStatus_fsmLog : (setStatus r s).fsmLog = s.fsmLog := rfl
@[simp] theorem setStatus_tapIn : (setStatus r s).tapIn = s.tapIn := rfl
@[simp] theorem setStatus_clkIn : (setStatus r s).clkIn = s.clkIn := rfl
@[simp] theorem setStatus_hostIn : (setStatus r s).hostIn = s.hostIn := rfl
@[simp] theorem setStatus_nonce : (setStatus r s).nonce = s.nonce := rfl
end

section
variable (v : Word)
@[simp] theorem setRspValue_dp : (setRspValue v s).dp = s.dp := rfl
@[simp] theorem setRspValue_aps : (setRspValue v s).aps = s.aps := rfl
@[simp] theorem setRspValue_win : (setRspValue v s).win = s.win := rfl
@[simp] theorem setRspValue_fsm : (setRspValue v s).fsm = s.fsm := rfl
@[simp] theorem setRspValue_t0 : (setRspValue v s).t0 = s.t0 := rfl
@[simp] theorem setRspValue_port : (setRspValue v s).port = { s.port with rspValue := v } := rfl
@[simp] theorem setRspValue_hbuf : (setRspValue v s).hbuf = s.hbuf := rfl
@[simp] theorem setRspValue_cfg : (setRspValue v s).cfg = s.cfg := rfl
@[simp] theorem setRspValue_stage : (setRspValue v s).stage = s.stage := rfl
@[simp] theorem setRspValue_acc : (setRspValue v s).acc = s.acc := rfl
@[simp] theorem setRspValue_cont : (setRspValue v s).cont = s.cont := rfl
@[simp] theorem setRspValue_trace : (setRspValue v s).trace = s.trace := rfl
@[simp] theorem setRspValue_fsmLog : (setRspValue v s).fsmLog = s.fsmLog := rfl
@[simp] theorem setRspValue_tapIn : (setRspValue v s).tapIn = s.tapIn := rfl
@[simp] theorem setRspValue_clkIn : (setRspValue v s).clkIn = s.clkIn := rfl
@[simp] theorem setRspValue_hostIn : (setRspValue v s).hostIn = s.hostIn := rfl
@[simp] theorem setRspValue_nonce : (setRspValue v s).nonce = s.nonce := rfl
end

section
variable (v : Word)
@[simp] theorem setRspCount_dp : (setRspCount v s).dp = s.dp := rfl
@[simp] theorem setRspCount_aps : (setRspCount v s).aps = s.aps := rfl
@[simp] theorem setRspCount_win : (setRspCount v s).win = s.win := rfl
@[simp] theorem setRspCount_fsm : (setRspCount v s).fsm = s.fsm := rfl
@[simp] theorem setRspCount_t0 : (setRspCount v s).t0 = s.t0 := rfl
@[simp] theorem setRspCount_port : (setRspCount v s).port = { s.port with rspCount := v } := rfl
@[simp] theorem setRspCount_hbuf : (setRspCount v s).hbuf = s.hbuf := rfl
@[simp] theorem setRspCount_cfg : (setRspCount v s).cfg = s.cfg := rfl
@[simp] theorem setRspCount_stage : (setRspCount v s).stage = s.stage := rfl
@[simp] theorem setRspCount_acc : (setRspCount v s).acc = s.acc := rfl
@[simp] theorem setRspCount_cont : (setRspCount v s).cont = s.cont := rfl
@[simp] theorem setRspCount_trace : (setRspCount v s).trace = s.trace := rfl
@[simp] theorem setRspCount_fsmLog : (setRspCount v s).fsmLog = s.fsmLog := rfl
@[simp] theorem setRspCount_tapIn : (setRspCount v s).tapIn = s.tapIn := rfl
@[simp] theorem setRspCount_clkIn : (setRspCount v s).clkIn = s.clkIn := rfl
@[simp] theorem setRspCount_hostIn : (setRspCount v s).hostIn = s.hostIn := rfl
@[simp] theorem setRspCount_nonce : (setRspCount v s).nonce = s.nonce := rfl
end

section
@[simp] theorem forgetT0_dp : (forgetT0 s).dp = s.dp := rfl
@[simp] theorem forgetT0_aps : (forgetT0 s).aps = s.aps := rfl
@[simp] theorem forgetT0_win : (forgetT0 s).win = s.win := rfl
@[simp] theorem forgetT0_fsm : (forgetT0 s).fsm = s.fsm := rfl
@[simp] theorem forgetT0_t0 : (forgetT0 s).t0 = Config.freeT0 s.nonce := rfl
@[simp] theorem forgetT0_port : (forgetT0 s).port = s.port := rfl
@[simp] theorem forgetT0_hbuf : (forgetT0 s).hbuf = s.hbuf := rfl
@[simp] theorem forgetT0_cfg : (forgetT0 s).cfg = s.cfg := rfl
@[simp] theorem forgetT0_stage : (forgetT0 s).stage = s.stage := rfl
@[simp] theorem forgetT0_acc : (forgetT0 s).acc = s.acc := rfl
@[simp] theorem forgetT0_cont : (forgetT0 s).cont = s.cont := rfl
@[simp] theorem forgetT0_trace : (forgetT0 s).trace = s.trace := rfl
@[simp] theorem forgetT0_fsmLog : (forgetT0 s).fsmLog = s.fsmLog := rfl
@[simp] theorem forgetT0_tapIn : (forgetT0 s).tapIn = s.tapIn := rfl
@[simp] theorem forgetT0_clkIn : (forgetT0 s).clkIn = s.clkIn := rfl
@[simp] theorem forgetT0_hostIn : (forgetT0 s).hostIn = s.hostIn := rfl
@[simp] theorem forgetT0_nonce : (forgetT0 s).nonce = s.nonce + 1 := rfl
end

section
@[simp] theorem forgetWin_dp : (forgetWin s).dp = s.dp := rfl
@[simp] theorem forgetWin_aps : (forgetWin s).aps = s.aps := rfl
@[simp] theorem forgetWin_win : (forgetWin s).win = ⟨Config.freeWinSz s.nonce, Config.freeWinInc s.nonce, Config.freeWinA s.nonce,
      Config.freeWinDone s.nonce, Config.freeWinUnits s.nonce⟩ := rfl
@[simp] theorem forgetWin_fsm : (forgetWin s).fsm = s.fsm := rfl
@[simp] theorem forgetWin_t0 : (forgetWin s).t0 = s.t0 := rfl
@[simp] theorem forgetWin_port : (forgetWin s).port = s.port := rfl
@[simp] theorem forgetWin_hbuf : (forgetWin s).hbuf = s.hbuf := rfl
@[simp] theorem forgetWin_cfg : (forgetWin s).cfg = s.cfg := rfl
@[simp] theorem forgetWin_stage : (forgetWin s).stage = s.stage := rfl
@[simp] theorem forgetWin_acc : (forgetWin s).acc = s.acc := rfl
@[simp] theorem forgetWin_cont : (forgetWin s).cont = s.cont := rfl
@[simp] theorem forgetWin_trace : (forgetWin s).trace = s.trace := rfl
@[simp] theorem forgetWin_fsmLog : (forgetWin s).fsmLog = s.fsmLog := rfl
@[simp] theorem forgetWin_tapIn : (forgetWin s).tapIn = s.tapIn := rfl
@[simp] theorem forgetWin_clkIn : (forgetWin s).clkIn = s.clkIn := rfl
@[simp] theorem forgetWin_hostIn : (forgetWin s).hostIn = s.hostIn := rfl
@[simp] theorem forgetWin_nonce : (forgetWin s).nonce = s.nonce + 1 := rfl
end

section
@[simp] theorem forgetDp_dp : (forgetDp s).dp = { s.dp with idcode := Config.freeIdcode s.nonce, variant := Config.freeVariant s.nonce } := rfl
@[simp] theorem forgetDp_aps : (forgetDp s).aps =
    ApTable.tabulate (fun i => { s.ap i with idr := Config.freeIdr s.nonce i }) := rfl
@[simp] theorem forgetDp_win : (forgetDp s).win = s.win := rfl
@[simp] theorem forgetDp_fsm : (forgetDp s).fsm = s.fsm := rfl
@[simp] theorem forgetDp_t0 : (forgetDp s).t0 = s.t0 := rfl
@[simp] theorem forgetDp_port : (forgetDp s).port = s.port := rfl
@[simp] theorem forgetDp_hbuf : (forgetDp s).hbuf = s.hbuf := rfl
@[simp] theorem forgetDp_cfg : (forgetDp s).cfg = s.cfg := rfl
@[simp] theorem forgetDp_stage : (forgetDp s).stage = s.stage := rfl
@[simp] theorem forgetDp_acc : (forgetDp s).acc = s.acc := rfl
@[simp] theorem forgetDp_cont : (forgetDp s).cont = s.cont := rfl
@[simp] theorem forgetDp_trace : (forgetDp s).trace = s.trace := rfl
@[simp] theorem forgetDp_fsmLog : (forgetDp s).fsmLog = s.fsmLog := rfl
@[simp] theorem forgetDp_tapIn : (forgetDp s).tapIn = s.tapIn := rfl
@[simp] theorem forgetDp_clkIn : (forgetDp s).clkIn = s.clkIn := rfl
@[simp] theorem forgetDp_hostIn : (forgetDp s).hostIn = s.hostIn := rfl
@[simp] theorem forgetDp_nonce : (forgetDp s).nonce = s.nonce + 1 := rfl
end

section
@[simp] theorem clearPosition_dp : (clearPosition s).dp = s.dp := rfl
@[simp] theorem clearPosition_aps : (clearPosition s).aps = s.aps := rfl
@[simp] theorem clearPosition_win : (clearPosition s).win = s.win := rfl
@[simp] theorem clearPosition_fsm : (clearPosition s).fsm = s.fsm := rfl
@[simp] theorem clearPosition_t0 : (clearPosition s).t0 = s.t0 := rfl
@[simp] theorem clearPosition_port : (clearPosition s).port = s.port := rfl
@[simp] theorem clearPosition_hbuf : (clearPosition s).hbuf = s.hbuf := rfl
@[simp] theorem clearPosition_cfg : (clearPosition s).cfg = s.cfg := rfl
@[simp] theorem clearPosition_stage : (clearPosition s).stage = .idle := rfl
@[simp] theorem clearPosition_acc : (clearPosition s).acc = Access.none := rfl
@[simp] theorem clearPosition_cont : (clearPosition s).cont = .none := rfl
@[simp] theorem clearPosition_trace : (clearPosition s).trace = s.trace := rfl
@[simp] theorem clearPosition_fsmLog : (clearPosition s).fsmLog = s.fsmLog := rfl
@[simp] theorem clearPosition_tapIn : (clearPosition s).tapIn = s.tapIn := rfl
@[simp] theorem clearPosition_clkIn : (clearPosition s).clkIn = s.clkIn := rfl
@[simp] theorem clearPosition_hostIn : (clearPosition s).hostIn = s.hostIn := rfl
@[simp] theorem clearPosition_nonce : (clearPosition s).nonce = s.nonce := rfl
end

section
@[simp] theorem latchFault_dp : (latchFault s).dp = { s.dp with fault := true } := rfl
@[simp] theorem latchFault_aps : (latchFault s).aps = s.aps := rfl
@[simp] theorem latchFault_win : (latchFault s).win = s.win := rfl
@[simp] theorem latchFault_fsm : (latchFault s).fsm = s.fsm := rfl
@[simp] theorem latchFault_t0 : (latchFault s).t0 = s.t0 := rfl
@[simp] theorem latchFault_port : (latchFault s).port = s.port := rfl
@[simp] theorem latchFault_hbuf : (latchFault s).hbuf = s.hbuf := rfl
@[simp] theorem latchFault_cfg : (latchFault s).cfg = s.cfg := rfl
@[simp] theorem latchFault_stage : (latchFault s).stage = s.stage := rfl
@[simp] theorem latchFault_acc : (latchFault s).acc = s.acc := rfl
@[simp] theorem latchFault_cont : (latchFault s).cont = s.cont := rfl
@[simp] theorem latchFault_trace : (latchFault s).trace = s.trace := rfl
@[simp] theorem latchFault_fsmLog : (latchFault s).fsmLog = s.fsmLog := rfl
@[simp] theorem latchFault_tapIn : (latchFault s).tapIn = s.tapIn := rfl
@[simp] theorem latchFault_clkIn : (latchFault s).clkIn = s.clkIn := rfl
@[simp] theorem latchFault_hostIn : (latchFault s).hostIn = s.hostIn := rfl
@[simp] theorem latchFault_nonce : (latchFault s).nonce = s.nonce := rfl
end

section
@[simp] theorem clearFault_dp : (clearFault s).dp = { s.dp with fault := false } := rfl
@[simp] theorem clearFault_aps : (clearFault s).aps = s.aps := rfl
@[simp] theorem clearFault_win : (clearFault s).win = s.win := rfl
@[simp] theorem clearFault_fsm : (clearFault s).fsm = s.fsm := rfl
@[simp] theorem clearFault_t0 : (clearFault s).t0 = s.t0 := rfl
@[simp] theorem clearFault_port : (clearFault s).port = s.port := rfl
@[simp] theorem clearFault_hbuf : (clearFault s).hbuf = s.hbuf := rfl
@[simp] theorem clearFault_cfg : (clearFault s).cfg = s.cfg := rfl
@[simp] theorem clearFault_stage : (clearFault s).stage = s.stage := rfl
@[simp] theorem clearFault_acc : (clearFault s).acc = s.acc := rfl
@[simp] theorem clearFault_cont : (clearFault s).cont = s.cont := rfl
@[simp] theorem clearFault_trace : (clearFault s).trace = s.trace := rfl
@[simp] theorem clearFault_fsmLog : (clearFault s).fsmLog = s.fsmLog := rfl
@[simp] theorem clearFault_tapIn : (clearFault s).tapIn = s.tapIn := rfl
@[simp] theorem clearFault_clkIn : (clearFault s).clkIn = s.clkIn := rfl
@[simp] theorem clearFault_hostIn : (clearFault s).hostIn = s.hostIn := rfl
@[simp] theorem clearFault_nonce : (clearFault s).nonce = s.nonce := rfl
end

section
variable (rnw : Bool) (addr : BitVec 9) (wval : Word) (k : Cont)
@[simp] theorem beginAccess_dp : (beginAccess rnw addr wval k s).dp = s.dp := rfl
@[simp] theorem beginAccess_aps : (beginAccess rnw addr wval k s).aps = s.aps := rfl
@[simp] theorem beginAccess_win : (beginAccess rnw addr wval k s).win = s.win := rfl
@[simp] theorem beginAccess_fsm : (beginAccess rnw addr wval k s).fsm = s.fsm := rfl
@[simp] theorem beginAccess_t0 : (beginAccess rnw addr wval k s).t0 = s.t0 := rfl
@[simp] theorem beginAccess_port : (beginAccess rnw addr wval k s).port = s.port := rfl
@[simp] theorem beginAccess_hbuf : (beginAccess rnw addr wval k s).hbuf = s.hbuf := rfl
@[simp] theorem beginAccess_cfg : (beginAccess rnw addr wval k s).cfg = s.cfg := rfl
@[simp] theorem beginAccess_stage : (beginAccess rnw addr wval k s).stage = .start := rfl
@[simp] theorem beginAccess_acc : (beginAccess rnw addr wval k s).acc = ⟨rnw, addr, wval, 0⟩ := rfl
@[simp] theorem beginAccess_cont : (beginAccess rnw addr wval k s).cont = k := rfl
@[simp] theorem beginAccess_trace : (beginAccess rnw addr wval k s).trace = s.trace := rfl
@[simp] theorem beginAccess_fsmLog : (beginAccess rnw addr wval k s).fsmLog = s.fsmLog := rfl
@[simp] theorem beginAccess_tapIn : (beginAccess rnw addr wval k s).tapIn = s.tapIn := rfl
@[simp] theorem beginAccess_clkIn : (beginAccess rnw addr wval k s).clkIn = s.clkIn := rfl
@[simp] theorem beginAccess_hostIn : (beginAccess rnw addr wval k s).hostIn = s.hostIn := rfl
@[simp] theorem beginAccess_nonce : (beginAccess rnw addr wval k s).nonce = s.nonce := rfl
end

section
@[simp] theorem destroyDp_dp : (destroyDp s).dp = ⟨false, Config.freeIdcode s.nonce, false, none, Config.freeVariant s.nonce⟩ := rfl
/-- The AccessPort objects are gone and every IDR is free (R50, R252). -/
@[simp] theorem destroyDp_aps : (destroyDp s).aps =
    ApTable.tabulate (fun i => ⟨false, Config.freeIdr s.nonce i, none, none⟩) :=
  ApTable.ext_get fun i => by simp [destroyDp, forgetDp, discardAps, State.ap, AccessPort.discard]
@[simp] theorem destroyDp_win : (destroyDp s).win = s.win := rfl
@[simp] theorem destroyDp_fsm : (destroyDp s).fsm = s.fsm := rfl
@[simp] theorem destroyDp_t0 : (destroyDp s).t0 = s.t0 := rfl
@[simp] theorem destroyDp_port : (destroyDp s).port = s.port := rfl
@[simp] theorem destroyDp_hbuf : (destroyDp s).hbuf = s.hbuf := rfl
@[simp] theorem destroyDp_cfg : (destroyDp s).cfg = s.cfg := rfl
@[simp] theorem destroyDp_stage : (destroyDp s).stage = s.stage := rfl
@[simp] theorem destroyDp_acc : (destroyDp s).acc = s.acc := rfl
@[simp] theorem destroyDp_cont : (destroyDp s).cont = s.cont := rfl
@[simp] theorem destroyDp_trace : (destroyDp s).trace = s.trace := rfl
@[simp] theorem destroyDp_fsmLog : (destroyDp s).fsmLog = s.fsmLog := rfl
@[simp] theorem destroyDp_tapIn : (destroyDp s).tapIn = s.tapIn := rfl
@[simp] theorem destroyDp_clkIn : (destroyDp s).clkIn = s.clkIn := rfl
@[simp] theorem destroyDp_hostIn : (destroyDp s).hostIn = s.hostIn := rfl
@[simp] theorem destroyDp_nonce : (destroyDp s).nonce = s.nonce + 1 := rfl
end

section
@[simp] theorem advanceWin_dp : (advanceWin s).dp = s.dp := rfl
@[simp] theorem advanceWin_aps : (advanceWin s).aps = s.aps := rfl
@[simp] theorem advanceWin_win : (advanceWin s).win = { s.win with a := s.win.a + unitBytes s.win.sz, done := s.win.done + 1 } := rfl
@[simp] theorem advanceWin_fsm : (advanceWin s).fsm = s.fsm := rfl
@[simp] theorem advanceWin_t0 : (advanceWin s).t0 = s.t0 := rfl
@[simp] theorem advanceWin_port : (advanceWin s).port = s.port := rfl
@[simp] theorem advanceWin_hbuf : (advanceWin s).hbuf = s.hbuf := rfl
@[simp] theorem advanceWin_cfg : (advanceWin s).cfg = s.cfg := rfl
@[simp] theorem advanceWin_stage : (advanceWin s).stage = s.stage := rfl
@[simp] theorem advanceWin_acc : (advanceWin s).acc = s.acc := rfl
@[simp] theorem advanceWin_cont : (advanceWin s).cont = s.cont := rfl
@[simp] theorem advanceWin_trace : (advanceWin s).trace = s.trace := rfl
@[simp] theorem advanceWin_fsmLog : (advanceWin s).fsmLog = s.fsmLog := rfl
@[simp] theorem advanceWin_tapIn : (advanceWin s).tapIn = s.tapIn := rfl
@[simp] theorem advanceWin_clkIn : (advanceWin s).clkIn = s.clkIn := rfl
@[simp] theorem advanceWin_hostIn : (advanceWin s).hostIn = s.hostIn := rfl
@[simp] theorem advanceWin_nonce : (advanceWin s).nonce = s.nonce := rfl
end

/-! ### `finish`: the one end of a command -/

/-- `finish` writes the status, leaves no command under way, and after a memory command forgets the window. -/
theorem finish_eq (r : Status) : finish r s =
    { (if s.cont.isMem then forgetWin s else s) with
      port := { s.port with rspStatus := r.code }, stage := .idle, acc := Access.none, cont := .none } := by
  unfold finish
  split <;> rfl

@[simp] theorem finish_stage (r : Status) : (finish r s).stage = .idle := rfl
@[simp] theorem finish_cont (r : Status) : (finish r s).cont = .none := rfl
@[simp] theorem finish_acc (r : Status) : (finish r s).acc = Access.none := rfl
@[simp] theorem finish_dp (r : Status) : (finish r s).dp = s.dp := by
  rw [finish_eq]; split <;> rfl
@[simp] theorem finish_aps (r : Status) : (finish r s).aps = s.aps := by
  rw [finish_eq]; split <;> rfl
@[simp] theorem finish_fsm (r : Status) : (finish r s).fsm = s.fsm := by
  rw [finish_eq]; split <;> rfl
@[simp] theorem finish_t0 (r : Status) : (finish r s).t0 = s.t0 := by
  rw [finish_eq]; split <;> rfl
@[simp] theorem finish_hbuf (r : Status) : (finish r s).hbuf = s.hbuf := by
  rw [finish_eq]; split <;> rfl
@[simp] theorem finish_cfg (r : Status) : (finish r s).cfg = s.cfg := by
  rw [finish_eq]; split <;> rfl
@[simp] theorem finish_trace (r : Status) : (finish r s).trace = s.trace := by
  rw [finish_eq]; split <;> rfl
@[simp] theorem finish_fsmLog (r : Status) : (finish r s).fsmLog = s.fsmLog := by
  rw [finish_eq]; split <;> rfl
@[simp] theorem finish_tapIn (r : Status) : (finish r s).tapIn = s.tapIn := by
  rw [finish_eq]; split <;> rfl
@[simp] theorem finish_clkIn (r : Status) : (finish r s).clkIn = s.clkIn := by
  rw [finish_eq]; split <;> rfl
@[simp] theorem finish_hostIn (r : Status) : (finish r s).hostIn = s.hostIn := by
  rw [finish_eq]; split <;> rfl
@[simp] theorem finish_port (r : Status) : (finish r s).port = { s.port with rspStatus := r.code } := by
  rw [finish_eq]

/-! ### `raise`: taking an exception (R268) -/

theorem countOnRaise_eq : countOnRaise s =
    s.setPort (if s.cont.isMem then { s.port with rspCount := confirmedBytes s } else s.port) := by
  unfold countOnRaise
  split <;> rfl

@[simp] theorem raise_dp (c : Condition) : (raise c s).dp = { s.dp with selCache := none } := by
  simp [raise, countOnRaise_eq]
@[simp] theorem raise_aps (c : Condition) : (raise c s).aps = ApTable.map AccessPort.dropCaches s.aps := by
  simp [raise, countOnRaise_eq]
@[simp] theorem raise_fsm (c : Condition) : (raise c s).fsm = .idle := by
  simp [raise, countOnRaise_eq]
@[simp] theorem raise_t0 (c : Condition) : (raise c s).t0 = Config.freeT0 s.nonce := by
  simp [raise, countOnRaise_eq]
@[simp] theorem raise_hbuf (c : Condition) : (raise c s).hbuf = s.hbuf := by
  simp [raise, countOnRaise_eq]
@[simp] theorem raise_cfg (c : Condition) : (raise c s).cfg = s.cfg := by
  simp [raise, countOnRaise_eq]
@[simp] theorem raise_stage (c : Condition) : (raise c s).stage = .idle := by
  simp [raise, countOnRaise_eq]
@[simp] theorem raise_acc (c : Condition) : (raise c s).acc = Access.none := by
  simp [raise, countOnRaise_eq]
@[simp] theorem raise_cont (c : Condition) : (raise c s).cont = .none := by
  simp [raise, countOnRaise_eq]
@[simp] theorem raise_trace (c : Condition) : (raise c s).trace = s.trace := by
  simp [raise, countOnRaise_eq]
@[simp] theorem raise_fsmLog (c : Condition) : (raise c s).fsmLog = .idle :: c.fsm :: s.fsmLog := by
  simp [raise, countOnRaise_eq]
@[simp] theorem raise_tapIn (c : Condition) : (raise c s).tapIn = s.tapIn := by
  simp [raise, countOnRaise_eq]
@[simp] theorem raise_clkIn (c : Condition) : (raise c s).clkIn = s.clkIn := by
  simp [raise, countOnRaise_eq]
@[simp] theorem raise_hostIn (c : Condition) : (raise c s).hostIn = s.hostIn := by
  simp [raise, countOnRaise_eq]
/-- A raise writes the status, and for a memory command the count of bytes confirmed; nothing else on the port. -/
@[simp] theorem raise_port (c : Condition) : (raise c s).port =
    { s.port with rspStatus := c.status.code,
                  rspCount := if s.cont.isMem then confirmedBytes s else s.port.rspCount } := by
  unfold raise
  rw [finish_port, countOnRaise_eq]
  by_cases h : s.cont.isMem <;> simp [h, confirmedBytes]

/-! ### What a record of the AP table is after each operation -/

@[simp] theorem ap_setCswCache (i k : Byte) (c : Option Word) :
    (setCswCache i c s).ap k = if i = k then { s.ap k with cswCache := c } else s.ap k := by
  simp [State.ap, ApTable.get_change]

@[simp] theorem ap_setTarCache (i k : Byte) (c : Option Word) :
    (setTarCache i c s).ap k = if i = k then { s.ap k with tarCache := c } else s.ap k := by
  simp [State.ap, ApTable.get_change]

@[simp] theorem ap_invalidateApCaches (k : Byte) : (invalidateApCaches s).ap k = (s.ap k).dropCaches := by
  simp [State.ap]

@[simp] theorem ap_discardAps (k : Byte) : (discardAps s).ap k = (s.ap k).discard := by
  simp [State.ap]

@[simp] theorem ap_destroyDp (k : Byte) : (destroyDp s).ap k = ⟨false, Config.freeIdr s.nonce k, none, none⟩ := by
  simp [State.ap]

@[simp] theorem ap_scanFound (i n : Nat) (idr : Word) (k : Byte) :
    (scanFound i n idr s).ap k =
      if BitVec.ofNat 8 i = k then { s.ap k with present := true, idr := idr } else s.ap k := by
  show ApTable.get (ApTable.change _ _ _) k = _
  rw [ApTable.get_change]
  rfl

/-! ### SELECT -/


theorem ensureSelect_hit {i : Byte} {bank : BitVec 4} {hit : State → State} {k : Cont}
    (h : s.dp.selCache = some (i, bank)) : ensureSelect i bank hit k s = hit s := by
  simp [ensureSelect, h]

theorem ensureSelect_miss {i : Byte} {bank : BitVec 4} {hit : State → State} {k : Cont}
    (h : s.dp.selCache ≠ some (i, bank)) :
    ensureSelect i bank hit k s = beginAccess false Config.dpSelect (selectValue i bank) k s := by
  simp [ensureSelect, h]

end Sys2Proof.Machine
end

