-- ==== Sys2Proof/Laws/Drive.lean ====
section
/-! SUPPORT. The run of a command as a chain of moves: what one move is at each phase, how moves compose, and when the
answers at hand carry a command to its end. A proof about a command chains `Runs` and ends with `launch_of_runs`; it
unfolds neither `drive` nor `fetch`. -/

namespace Sys2Proof.Machine

/-! ### The meaning of each word the engine composes or takes -/

theorem execLink_request (ap rnw : Bool) (a : BitVec 2) (s : State) :
    execLink (swdRequestInstr ap rnw a) s = inPhase s.awaitsSwdRequest (sendRequest (requestByte ap rnw a)) s := by
  rcases bits2_cases a with rfl | rfl | rfl | rfl <;> cases ap <;> cases rnw <;> rfl

theorem execLink_scan (ap rnw : Bool) (a : BitVec 2) (d : Word) (s : State) :
    execLink (jtagScanInstr ap rnw a d) s = inPhase s.awaitsScan (shiftScan (jtagDrWord rnw a d)) s := by
  rcases bits2_cases a with rfl | rfl | rfl | rfl <;> cases ap <;> cases rnw <;> rfl

/-- How the engine reacts to an acknowledge (R134 to R138). -/
def react (b : BitVec 3) : State → State :=
  match b.toFin with
  | 1 => acceptOk
  | 2 => acceptWait
  | 4 => acceptFault
  | 0 | 3 | 5 | 6 | 7 => acceptInvalid

theorem execLink_ack (b : BitVec 3) (s : State) : execLink (ackInstr b) s = inPhase s.awaitsAck (react b) s := by
  rcases bits3_cases b with rfl | rfl | rfl | rfl | rfl | rfl | rfl | rfl <;> rfl

/-! ### One move at each phase -/

variable {s t u : State}

theorem linkStep_idle (h : s.stage = .idle) : linkStep s = .next s := by
  simp [linkStep, h]

theorem linkStep_start (h : s.stage = .start) : linkStep s = .next (startAccess s) := by
  simp [linkStep, fetch, h]

theorem decode_irCode (addr : BitVec 9) :
    decode .jtagIr ((irCode addr).setWidth 40) = .ok (if isAp addr then .jtagIrApacc else .jtagIrDpacc) := by
  unfold irCode
  split <;> rfl

theorem linkStep_ir (h : s.stage = .ir) : linkStep s = .next (loadIr (irCode s.acc.addr) s) := by
  simp only [linkStep, fetch, h, decode_irCode]
  cases hp : isAp s.acc.addr <;>
    simp [execLink, execJtagIrApacc, execJtagIrDpacc, inPhase, State.awaitsIr, h, irCode, hp]

theorem linkStep_reloadIr (h : s.stage = .reloadIr) : linkStep s = .next (loadIr (irCode s.acc.addr) s) := by
  simp only [linkStep, fetch, h, decode_irCode]
  cases hp : isAp s.acc.addr <;>
    simp [execLink, execJtagIrApacc, execJtagIrDpacc, inPhase, State.awaitsIr, h, irCode, hp]

theorem linkStep_collectIr (h : s.stage = .collectIr) : linkStep s = .next (loadIr Config.irDpacc s) := by
  have hd : decode .jtagIr (Config.irDpacc.setWidth 40) = .ok .jtagIrDpacc := rfl
  simp only [linkStep, fetch, h, hd]
  simp [execLink, execJtagIrDpacc, inPhase, State.awaitsIr, h]

/-- The collecting scan of `JTAG_POSTED` is a read of RDBUFF. -/
theorem linkStep_collect (h : s.stage = .collect) : linkStep s = .next (shiftScan collectWord s) := by
  have hd : decode (.jtagDr false) (collectWord.setWidth 40) = .ok (.jtagDpRdC 0) := rfl
  simp only [linkStep, fetch, h, hd]
  simp [execLink, execJtagDpRdC, inPhase, State.awaitsScan, h, collectWord, regBits, Config.dpRdbuff]

theorem linkStep_drain {r : TapReply} {rest : List TapReply} (h : s.stage = .drain) (ht : s.tapIn = r :: rest) :
    linkStep s = .next (dropResponse s) := by
  simp [linkStep, fetch, fetchDrain, h, ht]

theorem linkStep_clock {now : Word} {rest : List Word} (h : s.stage = .clock) (hc : s.clkIn = now :: rest) :
    linkStep s = .next (sampleT0 s) := by
  simp [linkStep, fetch, fetchClock, h, hc]

theorem linkStep_retryClock {now : Word} {rest : List Word} (h : s.stage = .retryClock) (hc : s.clkIn = now :: rest) :
    linkStep s = .next (retryOrTimeout s) := by
  simp [linkStep, fetch, fetchClock, h, hc]

/-- The reading after a WAIT: everything it can do (R135, R136). -/
theorem retryOrTimeout_cons {now : Word} {rest : List Word} (hc : s.clkIn = now :: rest) :
    retryOrTimeout s =
      if now - s.t0 < s.cfg.waitTimeoutMs then ((logCall .nowMs s).setClkIn rest).setStage (retryStage s)
      else raise .timeout ((logCall .nowMs s).setClkIn rest) := by
  simp only [retryOrTimeout, hc]
  rfl

/-- A JTAG acknowledge by the codes of the configuration: WAIT, FAULT, OK in the order of R133, else a row that is none of
the three (R99, log 18). -/
theorem jtagAck_cases (c : Config) (raw : BitVec 3) :
    raw = c.jtagAckWait ∧ jtagAck c raw = Config.ackWait ∨
    raw ≠ c.jtagAckWait ∧ raw = c.jtagAckFault ∧ jtagAck c raw = Config.ackFault ∨
    raw ≠ c.jtagAckWait ∧ raw ≠ c.jtagAckFault ∧ raw = c.jtagAckOk ∧ jtagAck c raw = Config.ackOk ∨
    raw ≠ c.jtagAckWait ∧ raw ≠ c.jtagAckFault ∧ raw ≠ c.jtagAckOk ∧
      jtagAck c raw ∉ [Config.ackOk, Config.ackWait, Config.ackFault] := by
  by_cases hw : raw = c.jtagAckWait
  · exact .inl ⟨hw, if_pos hw⟩
  by_cases hf : raw = c.jtagAckFault
  · exact .inr (.inl ⟨hw, hf, by rw [jtagAck, if_neg hw, if_pos hf]⟩)
  by_cases ho : raw = c.jtagAckOk
  · exact .inr (.inr (.inl ⟨hw, hf, ho, by rw [jtagAck, if_neg hw, if_neg hf, if_pos ho]⟩))
  refine .inr (.inr (.inr ⟨hw, hf, ho, ?_⟩))
  rw [jtagAck, if_neg hw, if_neg hf, if_neg ho]
  split
  · decide
  · next h => simpa using h

theorem linkStep_request_swd (h : s.stage = .request) (hw : s.wire = .swd) :
    linkStep s = .next (sendRequest s.acc.request s) := by
  simp only [linkStep, fetch, fetchRequest, h, hw, Access.request, decode_request, execLink_request]
  simp [inPhase, State.awaitsSwdRequest, h, hw]

theorem linkStep_request_jtag (h : s.stage = .request) (hw : s.wire = .jtag) :
    linkStep s = .next (shiftScan s.acc.scanWord s) := by
  have hd : ∀ ap, decode (.jtagDr ap) (s.acc.scanWord.setWidth 40)
      = .ok (jtagScanInstr ap s.acc.rnw (regBits s.acc.addr) (if s.acc.rnw then 0 else s.acc.wval)) := by
    intro ap
    exact decode_scan _ _ _ _ (by intro h1; simp [h1])
  simp only [linkStep, fetch, fetchRequest, h, hw, hd, execLink_scan]
  simp [inPhase, State.awaitsScan, h, hw, Access.scanWord]

theorem linkStep_ack_swd {r : TapReply} {rest : List TapReply} (h : s.stage = .ack) (hw : s.wire = .swd)
    (ht : s.tapIn = r :: rest) : linkStep s = .next (react (r.bits.extractLsb' 0 3) (s.setTapIn rest)) := by
  have hw' : (s.setTapIn rest).wire = .swd := hw
  simp only [linkStep, fetch, fetchAck, h, ht, hw', decode_ack, execLink_ack]
  simp [inPhase, State.awaitsAck, h]

theorem linkStep_ack_jtag {r : TapReply} {rest : List TapReply} (h : s.stage = .ack) (hw : s.wire = .jtag)
    (ht : s.tapIn = r :: rest) :
    linkStep s = .next (react (jtagAck s.cfg (r.bits.extractLsb' 0 3))
      ((s.setTapIn rest).setAcc { s.acc with value := r.bits.extractLsb' 3 32 })) := by
  have hw' : (s.setTapIn rest).wire = .jtag := hw
  simp only [linkStep, fetch, fetchAck, h, ht, hw', decode_ack, execLink_ack]
  simp [inPhase, State.awaitsAck, h]

/-- The parity bit of a received data phase is the data's exactly when the transport says so (R94). -/
theorem dataWord_decodes (r : TapReply) :
    decode .swdData (r.dataWord.setWidth 40)
      = .ok (.swdData (r.bits.setWidth 32)
          (if r.parityOk then evenParity (r.bits.setWidth 32) else !evenParity (r.bits.setWidth 32))) :=
  decode_data _ _

theorem linkStep_data_read {r : TapReply} {rest : List TapReply} (h : s.stage = .data) (hr : s.acc.rnw = true)
    (ht : s.tapIn = r :: rest) :
    linkStep s = .next (receiveData (r.bits.setWidth 32)
      (if r.parityOk then evenParity (r.bits.setWidth 32) else !evenParity (r.bits.setWidth 32))
      (s.setTapIn rest)) := by
  simp only [linkStep, fetch, fetchData, h, hr, ht, if_true, dataWord_decodes]
  simp [execLink, execSwdData, inPhase, State.awaitsData, h, hr]

theorem linkStep_data_write (h : s.stage = .data) (hr : s.acc.rnw = false) :
    linkStep s = .next (transmitData s.acc.wval s) := by
  simp only [linkStep, fetch, fetchData, h, hr]
  simp [execLink, execSwdData, inPhase, State.awaitsData, h, hr, decode_data]

theorem linkStep_flush (h : s.stage = .flush) : linkStep s = .next (flushLine s) := by
  simp only [linkStep, fetch, h, decode_flush]
  simp [execLink, execSwdFlush, inPhase, State.awaitsFlush, h]

theorem linkStep_lineReset (h : s.stage = .lineReset) : linkStep s = .next (lineResetSwitch s) := by
  simp only [linkStep, fetch, h, decode_switch]
  simp [execLink, execSwdJtag2Swd, inPhase, State.awaitsSwitch, h]

/-! ### Chains of moves -/

/-- After `k` moves the command stands at `t`. -/
def Steps (k : Nat) (s t : State) : Prop := ∀ n, drive (n + k) s = drive n t

theorem Steps.refl (s : State) : Steps 0 s s := fun _ => rfl

theorem Steps.one (h : linkStep s = .next t) : Steps 1 s t := by
  intro n
  simp [drive, h]

theorem Steps.trans {j k : Nat} (h1 : Steps j s t) (h2 : Steps k t u) : Steps (j + k) s u := by
  intro n
  rw [show n + (j + k) = n + k + j by omega, h1, h2]

theorem Steps.cons {k : Nat} (h1 : linkStep s = .next t) (h2 : Steps k t u) : Steps (k + 1) s u := by
  rw [Nat.add_comm]
  exact (Steps.one h1).trans h2

theorem drive_idle (h : s.stage = .idle) (n : Nat) : drive n s = .next s := by
  induction n with
  | zero => rfl
  | succ n ih => simp [drive, linkStep_idle h, ih]

/-- How many answers are at hand. -/
def State.answers (s : State) : Nat := s.tapIn.length + s.clkIn.length

/-- The command goes from `s` to `t`, no faster than eight moves for each answer it takes. -/
def Runs (s t : State) : Prop := ∃ k, Steps k s t ∧ k + 8 * t.answers ≤ 8 * s.answers

theorem Runs.refl (s : State) : Runs s s := ⟨0, Steps.refl s, by omega⟩

theorem Runs.trans (h1 : Runs s t) (h2 : Runs t u) : Runs s u := by
  obtain ⟨j, hj, hj'⟩ := h1
  obtain ⟨k, hk, hk'⟩ := h2
  exact ⟨j + k, hj.trans hk, by omega⟩

/-- A command whose moves end idle, at most eight of them without an answer, is complete in one launch. -/
theorem launch_of_steps {j : Nat} (hj : Steps j s t) (h8 : j + 8 * t.answers ≤ 8 * s.answers + 8) (h : Runs t u)
    (hu : u.stage = .idle) : launch s = .next u := by
  obtain ⟨k, hk, hk'⟩ := h
  have hf : fuel s = (8 * s.answers + 8 - (j + k)) + (j + k) := by
    have : fuel s = 8 * s.answers + 8 := rfl
    omega
  rw [launch, hf, hj.trans hk, drive_idle hu]

/-- A command whose moves end idle is complete in one launch. -/
theorem launch_of_runs (h : Runs s t) (ht : t.stage = .idle) : launch s = .next t :=
  launch_of_steps (Steps.refl s) (by omega) h ht

theorem launch_idle (h : s.stage = .idle) : launch s = .next s := drive_idle h _

theorem onIdle_eq (f : State → State) (h : s.stage = .idle) : onIdle f s = launch (f s) := by
  simp [onIdle, h]

theorem onIdle_busy (f : State → State) (h : s.stage ≠ .idle) : onIdle f s = .refused .commandWhileBusy := by
  simp [onIdle, h]

end Sys2Proof.Machine
end

