-- ==== Sys2Proof/Laws/Quiet.lean ====
section
/-! SUPPORT. What the running command does between its transactions touches no port, no clock, no configuration, and
not the state machine of the acknowledge. -/

namespace Sys2Proof.Machine

/-- From `s` to `t` no call is made, no answer is taken, and `fsm`, `t0` and the configuration stay as they were. -/
structure Quiet (s t : State) : Prop where
  fsm : t.fsm = s.fsm
  t0 : t.t0 = s.t0
  cfg : t.cfg = s.cfg
  trace : t.trace = s.trace
  fsmLog : t.fsmLog = s.fsmLog
  tapIn : t.tapIn = s.tapIn
  clkIn : t.clkIn = s.clkIn
  hostIn : t.hostIn = s.hostIn

variable {s t u : State}

theorem Quiet.refl (s : State) : Quiet s s := ⟨rfl, rfl, rfl, rfl, rfl, rfl, rfl, rfl⟩

theorem Quiet.trans (h : Quiet s t) (k : Quiet t u) : Quiet s u :=
  ⟨k.fsm.trans h.fsm, k.t0.trans h.t0, k.cfg.trans h.cfg, k.trace.trans h.trace, k.fsmLog.trans h.fsmLog,
    k.tapIn.trans h.tapIn, k.clkIn.trans h.clkIn, k.hostIn.trans h.hostIn⟩

theorem finish_quiet (r : Status) (s : State) : Quiet s (finish r s) := by
  constructor <;> simp

theorem beginAccess_quiet (rnw : Bool) (addr : BitVec 9) (wval : Word) (k : Cont) (s : State) :
    Quiet s (beginAccess rnw addr wval k s) := ⟨rfl, rfl, rfl, rfl, rfl, rfl, rfl, rfl⟩

theorem setRspValue_quiet (v : Word) (s : State) : Quiet s (setRspValue v s) := ⟨rfl, rfl, rfl, rfl, rfl, rfl, rfl, rfl⟩

theorem setRspCount_quiet (v : Word) (s : State) : Quiet s (setRspCount v s) := ⟨rfl, rfl, rfl, rfl, rfl, rfl, rfl, rfl⟩

theorem setTarCache_quiet (i : Byte) (c : Option Word) (s : State) : Quiet s (setTarCache i c s) :=
  ⟨rfl, rfl, rfl, rfl, rfl, rfl, rfl, rfl⟩

theorem setCswCache_quiet (i : Byte) (c : Option Word) (s : State) : Quiet s (setCswCache i c s) :=
  ⟨rfl, rfl, rfl, rfl, rfl, rfl, rfl, rfl⟩

theorem scanFound_quiet (i n : Nat) (idr : Word) (s : State) : Quiet s (scanFound i n idr s) :=
  ⟨rfl, rfl, rfl, rfl, rfl, rfl, rfl, rfl⟩

theorem clearFault_quiet (s : State) : Quiet s (clearFault s) := ⟨rfl, rfl, rfl, rfl, rfl, rfl, rfl, rfl⟩

theorem ensureSelect_quiet {i : Byte} {bank : BitVec 4} {hit : State → State} {k : Cont} (h : Quiet s (hit s)) :
    Quiet s (ensureSelect i bank hit k s) := by
  unfold ensureSelect
  split
  · exact h
  · exact beginAccess_quiet _ _ _ _ _

theorem apIssue_quiet (u : ApUse) (s : State) : Quiet s (apIssue u s) := by
  cases u <;> exact beginAccess_quiet _ _ _ _ _

theorem apAccess_quiet (u : ApUse) (s : State) : Quiet s (apAccess u s) :=
  ensureSelect_quiet (apIssue_quiet u s)

theorem scanDone_quiet (n : Nat) (s : State) : Quiet s (scanDone n s) :=
  (setRspCount_quiet _ s).trans (finish_quiet _ _)

theorem scanCandidate_quiet (i n : Nat) (s : State) : Quiet s (scanCandidate i n s) := by
  unfold scanCandidate
  split
  · exact scanDone_quiet n s
  · split
    · exact scanDone_quiet n s
    · exact apAccess_quiet _ s

theorem scanNext_quiet (i n : Nat) (idr : Word) (s : State) : Quiet s (scanNext i n idr s) := by
  unfold scanNext
  split
  · exact (scanFound_quiet i n idr s).trans (scanCandidate_quiet _ _ _)
  · split
    · exact scanDone_quiet n s
    · exact scanCandidate_quiet _ _ s

theorem apCacheEffects_quiet (i reg : Byte) (w : Bool) (v : Word) (o : AccessOutcome) (s : State) :
    Quiet s (apCacheEffects i reg w v o s) := by
  unfold apCacheEffects
  repeat' split
  all_goals exact ⟨rfl, rfl, rfl, rfl, rfl, rfl, rfl, rfl⟩

theorem apDone_quiet (u : ApUse) (v : Word) (o : AccessOutcome) (s : State) : Quiet s (apDone u v o s) := by
  cases u with
  | read =>
    exact ((apCacheEffects_quiet _ _ _ _ _ s).trans (setRspValue_quiet v _)).trans (finish_quiet .ok _)
  | write => exact (apCacheEffects_quiet _ _ _ _ _ s).trans (finish_quiet .ok _)
  | scan i n => exact scanNext_quiet i n v s

theorem apResume_quiet (u : ApUse) (p : ApPos) (v : Word) (o : AccessOutcome) (s : State) :
    Quiet s (apResume u p v o s) := by
  cases p with
  | select =>
    have h : Quiet s (selectWritten (u.select s) (bankOf (u.reg s)) o s) := ⟨rfl, rfl, rfl, rfl, rfl, rfl, rfl, rfl⟩
    simp only [apResume]
    split
    · exact h.trans (apIssue_quiet u _)
    · exact h.trans (apDone_quiet u _ _ _)
  | first =>
    simp only [apResume]
    split
    · exact beginAccess_quiet _ _ _ _ _
    · exact apDone_quiet _ _ _ _
  | last => exact apDone_quiet _ _ _ _

theorem memFault_quiet (rd : Bool) (s : State) : Quiet s (memFault rd s) := ⟨rfl, rfl, rfl, rfl, rfl, rfl, rfl, rfl⟩

theorem memReadNext_quiet (k : Nat) (s : State) : Quiet s (memReadNext k s) := by
  unfold memReadNext
  split <;> exact beginAccess_quiet _ _ _ _ _

theorem memWriteNext_quiet (k : Nat) (s : State) : Quiet s (memWriteNext k s) := beginAccess_quiet _ _ _ _ _

theorem memData_quiet (rd : Bool) (k : Nat) (s : State) : Quiet s (memData rd k s) := by
  unfold memData
  split
  · exact beginAccess_quiet _ _ _ _ _
  · exact memWriteNext_quiet k s

theorem memChunk_quiet (rd : Bool) (s : State) : Quiet s (memChunk rd s) := by
  unfold memChunk
  split
  · dsimp only
    split
    · exact memData_quiet rd _ s
    · exact beginAccess_quiet _ _ _ _ _
  · exact (setRspCount_quiet _ s).trans (finish_quiet _ _)

theorem memCsw_quiet (rd : Bool) (s : State) : Quiet s (memCsw rd s) := by
  unfold memCsw
  split
  · exact memChunk_quiet rd s
  · exact beginAccess_quiet _ _ _ _ _

theorem memBegin_quiet (rd : Bool) (s : State) : Quiet s (memBegin rd s) := ensureSelect_quiet (memCsw_quiet rd s)

theorem memUnitDone_quiet (rd : Bool) (k : Nat) (s : State) : Quiet s (memUnitDone rd k s) := by
  unfold memUnitDone
  split
  · exact (setTarCache_quiet _ _ s).trans (memChunk_quiet rd _)
  · split
    · exact memReadNext_quiet k s
    · exact memWriteNext_quiet k s

theorem memResume_quiet (rd : Bool) (p : MemPos) (v : Word) (o : AccessOutcome) (s : State) :
    Quiet s (memResume rd p v o s) := by
  cases p with
  | select =>
    have h : Quiet s (selectWritten s.port.argAp 0 o s) := ⟨rfl, rfl, rfl, rfl, rfl, rfl, rfl, rfl⟩
    simp only [memResume]
    split
    · exact h.trans (memCsw_quiet rd _)
    · exact h.trans (memFault_quiet rd _)
  | csw =>
    simp only [memResume]
    split
    · exact (setCswCache_quiet _ _ s).trans (memChunk_quiet rd _)
    · exact memFault_quiet rd _
  | tar k =>
    simp only [memResume]
    split
    · exact (setTarCache_quiet _ _ s).trans (memData_quiet rd k _)
    · exact memFault_quiet rd _
  | prime k =>
    simp only [memResume]
    split
    · exact memReadNext_quiet k s
    · exact memFault_quiet rd _
  | unit k =>
    simp only [memResume]
    split
    · refine Quiet.trans ?_ (memUnitDone_quiet rd (k - 1) _)
      cases rd <;> exact ⟨rfl, rfl, rfl, rfl, rfl, rfl, rfl, rfl⟩
    · exact memFault_quiet rd _
  | abort => exact (setRspCount_quiet _ s).trans (finish_quiet _ _)

/-- What follows a transaction makes no call and takes no answer. -/
theorem resume_quiet (v : Word) (o : AccessOutcome) (s : State) : Quiet s (resume v o s) := by
  unfold resume
  split
  · exact ⟨rfl, rfl, rfl, rfl, rfl, rfl, rfl, rfl⟩
  · exact ⟨rfl, rfl, rfl, rfl, rfl, rfl, rfl, rfl⟩
  · exact (setRspValue_quiet v s).trans (finish_quiet _ _)
  · split
    · exact beginAccess_quiet _ _ _ _ _
    · exact (setRspValue_quiet 0 s).trans (finish_quiet _ _)
  · exact (setRspValue_quiet v s).trans (finish_quiet _ _)
  · exact finish_quiet _ _
  · exact finish_quiet _ _
  · exact beginAccess_quiet _ _ _ _ _
  · exact ((clearFault_quiet s).trans (setRspValue_quiet _ _)).trans (finish_quiet _ _)
  · exact apResume_quiet _ _ _ _ _
  · exact memResume_quiet _ _ _ _ _

end Sys2Proof.Machine
end

