-- ==== Sys2Proof/Laws/Access.lean ====
section
/-! SUPPORT. One register transaction as a whole: from the call of `low_access` to the point where the running command
goes on with its result, for an access served OK at the first attempt, one answered FAULT, and one short-circuited. -/

namespace Sys2Proof.Machine

theorem wire_of_not_scan {s : State} (h : s.cont ≠ .scan) : s.wire = s.dp.variant := by
  unfold State.wire
  split <;> simp_all

/-! ### What follows a transaction reads neither the phase nor the transaction -/

/-- `s` at another phase, with another transaction. -/
def State.moved (s : State) (g : Stage) (x : Access) : State := (s.setStage g).setAcc x

section
variable (s : State) (g : Stage) (x : Access)

theorem finish_moved (r : Status) : finish r (s.moved g x) = finish r s := by
  rw [finish_eq, finish_eq]
  show _ = _
  by_cases h : s.cont.isMem = true
  · have h' : (s.moved g x).cont.isMem = true := h
    rw [if_pos h, if_pos h']; rfl
  · have h' : ¬ (s.moved g x).cont.isMem = true := h
    rw [if_neg h, if_neg h']; rfl

theorem ensureSelect_moved {i : Byte} {bank : BitVec 4} {hit hit' : State → State} {k : Cont}
    (hh : hit (s.moved g x) = hit' s) : ensureSelect i bank hit k (s.moved g x) = ensureSelect i bank hit' k s := by
  unfold ensureSelect
  show (if s.dp.selCache = _ then _ else _) = _
  rw [hh]
  rfl

theorem apIssue_moved (u : ApUse) : apIssue u (s.moved g x) = apIssue u s := by
  cases u <;> rfl

theorem apUse_moved (u : ApUse) : u.select (s.moved g x) = u.select s ∧ u.reg (s.moved g x) = u.reg s := by
  cases u <;> exact ⟨rfl, rfl⟩

theorem apAccess_moved (u : ApUse) : apAccess u (s.moved g x) = apAccess u s := by
  unfold apAccess
  rw [(apUse_moved s g x u).1, (apUse_moved s g x u).2]
  exact ensureSelect_moved s g x (apIssue_moved s g x u)

theorem scanDone_moved (n : Nat) : scanDone n (s.moved g x) = scanDone n s :=
  finish_moved (setRspCount (BitVec.ofNat 32 n) s) g x .ok

theorem scanCandidate_moved (i n : Nat) : scanCandidate i n (s.moved g x) = scanCandidate i n s := by
  unfold scanCandidate
  rw [scanDone_moved, apAccess_moved]
  rfl

theorem scanNext_moved (i n : Nat) (idr : Word) : scanNext i n idr (s.moved g x) = scanNext i n idr s := by
  unfold scanNext
  rw [scanDone_moved, scanCandidate_moved, show scanFound i n idr (s.moved g x) = (scanFound i n idr s).moved g x from rfl,
    scanCandidate_moved]
  rfl

theorem apCacheEffects_moved (i reg : Byte) (w : Bool) (v : Word) (o : AccessOutcome) :
    apCacheEffects i reg w v o (s.moved g x) = (apCacheEffects i reg w v o s).moved g x := by
  unfold apCacheEffects
  repeat' split
  all_goals rfl

theorem apDone_moved (u : ApUse) (v : Word) (o : AccessOutcome) : apDone u v o (s.moved g x) = apDone u v o s := by
  cases u with
  | read =>
    simp only [apDone]
    rw [apCacheEffects_moved]
    exact finish_moved (setRspValue v (apCacheEffects s.port.argAp s.argApReg false 0 o s)) g x .ok
  | write =>
    simp only [apDone]
    rw [apCacheEffects_moved]
    exact finish_moved (apCacheEffects s.port.argAp s.argApReg true s.port.argValue o s) g x .ok
  | scan i n => exact scanNext_moved s g x i n v

theorem apResume_moved (u : ApUse) (p : ApPos) (v : Word) (o : AccessOutcome) :
    apResume u p v o (s.moved g x) = apResume u p v o s := by
  cases p with
  | select =>
    simp only [apResume]
    rw [(apUse_moved s g x u).1, (apUse_moved s g x u).2,
      show ∀ i b, selectWritten i b o (s.moved g x) = (selectWritten i b o s).moved g x from fun _ _ => rfl,
      apIssue_moved, apDone_moved]
  | first =>
    simp only [apResume]
    rw [apDone_moved]
    rfl
  | last => exact apDone_moved s g x u v o

theorem memWriteNext_moved (k : Nat) : memWriteNext k (s.moved g x) = memWriteNext k s := rfl

theorem memReadNext_moved (k : Nat) : memReadNext k (s.moved g x) = memReadNext k s := by
  unfold memReadNext
  split <;> rfl

theorem memData_moved (rd : Bool) (k : Nat) : memData rd k (s.moved g x) = memData rd k s := by
  unfold memData
  split <;> rfl

theorem memChunk_moved (rd : Bool) : memChunk rd (s.moved g x) = memChunk rd s := by
  unfold memChunk
  rw [show memDone (s.moved g x) = memDone s from finish_moved (setRspCount s.port.argLen s) g x .ok]
  simp only [memData_moved]
  rfl

theorem memCsw_moved (rd : Bool) : memCsw rd (s.moved g x) = memCsw rd s := by
  unfold memCsw
  rw [memChunk_moved]
  rfl

theorem memFault_moved (rd : Bool) : memFault rd (s.moved g x) = memFault rd s := rfl

theorem memUnitDone_moved (rd : Bool) (k : Nat) : memUnitDone rd k (s.moved g x) = memUnitDone rd k s := by
  unfold memUnitDone
  rw [memReadNext_moved, memWriteNext_moved,
    show memChunkEnd rd (s.moved g x) = memChunkEnd rd s from memChunk_moved (setTarCache s.port.argAp _ s) g x rd]

theorem memResume_moved (rd : Bool) (p : MemPos) (v : Word) (o : AccessOutcome) :
    memResume rd p v o (s.moved g x) = memResume rd p v o s := by
  cases p with
  | select =>
    simp only [memResume]
    rw [show ∀ i b, selectWritten i b o (s.moved g x) = (selectWritten i b o s).moved g x from fun _ _ => rfl,
      memFault_moved, memCsw_moved]
    rfl
  | csw =>
    simp only [memResume]
    rw [memFault_moved,
      show ∀ i c, setCswCache i c (s.moved g x) = (setCswCache i c s).moved g x from fun _ _ => rfl, memChunk_moved]
    rfl
  | tar k =>
    simp only [memResume]
    rw [memFault_moved,
      show ∀ i c, setTarCache i c (s.moved g x) = (setTarCache i c s).moved g x from fun _ _ => rfl, memData_moved]
    rfl
  | prime k =>
    simp only [memResume]
    rw [memFault_moved, memReadNext_moved]
  | unit k =>
    simp only [memResume]
    rw [memFault_moved,
      show advanceWin (if rd = true then storeUnit v (s.moved g x) else s.moved g x)
        = (advanceWin (if rd = true then storeUnit v s else s)).moved g x by cases rd <;> rfl,
      memUnitDone_moved]
  | abort => exact finish_moved (setRspCount (confirmedBytes s) s) g x .memoryFault

/-- `low_access` returns to the command, which reads neither the phase nor the transaction. -/
theorem resume_moved (v : Word) (o : AccessOutcome) : resume v o (s.moved g x) = resume v o s := by
  have hm : (s.moved g x).cont = s.cont := rfl
  cases hc : s.cont with
  | none => simp only [resume, hm, hc]; rfl
  | scan => simp only [resume, hm, hc]; rfl
  | lowAccess => simp only [resume, hm, hc]; exact finish_moved (setRspValue v s) g x .ok
  | dpReadFirst =>
    simp only [resume, hm, hc]
    rw [show finish .ok (setRspValue 0 (s.moved g x)) = finish .ok (setRspValue 0 s) from
      finish_moved (setRspValue 0 s) g x .ok]
    rfl
  | dpRead => simp only [resume, hm, hc]; exact finish_moved (setRspValue v s) g x .ok
  | dpWrite => simpa only [resume, hm, hc] using finish_moved s g x .ok
  | dpAbort => simpa only [resume, hm, hc] using finish_moved s g x .ok
  | errorRead => simp only [resume, hm, hc]; rfl
  | errorAbort e => simp only [resume, hm, hc]; exact finish_moved (setRspValue e (clearFault s)) g x .ok
  | ap u p => simpa only [resume, hm, hc] using apResume_moved s g x u p v o
  | mem rd p => simpa only [resume, hm, hc] using memResume_moved s g x rd p v o
end

/-! ### The chain of moves of one access -/

theorem react_ok : react 0b001 = acceptOk := rfl
theorem react_wait : react 0b010 = acceptWait := rfl
theorem react_fault : react 0b100 = acceptFault := rfl

/-- The first move of an access that is not short-circuited (R131, R132, R133). -/
theorem startAccess_go {s : State} (h : ¬ (isAp s.acc.addr = true ∧ s.dp.fault = true)) (hc : s.cont ≠ .scan) :
    startAccess s = s.setStage (match s.dp.variant with | .swd => .clock | .jtag => .ir) := by
  unfold startAccess
  rw [if_neg h, wire_of_not_scan hc]
  cases s.dp.variant <;> rfl

/-- The short-circuit (R131). -/
theorem startAccess_skip {s : State} (h : isAp s.acc.addr = true ∧ s.dp.fault = true) :
    startAccess s = returnAccess 0 .skipped (moveFsm .idle (moveFsm .faulted s)) := by
  unfold startAccess
  rw [if_pos h]

theorem sampleT0_eq {s : State} {now : Word} {clk : List Word} (h : s.clkIn = now :: clk) :
    sampleT0 s = (((logCall .nowMs s).setClkIn clk).setT0 now).setStage .request := by
  simp [sampleT0, h]

theorem sendRequest_eq {s : State} (hc : s.cont ≠ .scan) (req : Byte) :
    sendRequest req s = (logCall (.seqOut (req.setWidth 32) 8) (moveFsm .requestSent s)).setStage .ack := by
  simp [sendRequest, moveFsmInAccess, hc]

/-- The request's scan, at its phase (R133, log 21). -/
theorem shiftScan_request {s : State} (h : s.stage = .request) (o : BitVec 35) :
    shiftScan o s = (logCall (.jtagDr o) (moveFsm .requestSent s)).setStage
      (if s.cfg.jtagPosted then .drain else .ack) := by
  simp [shiftScan, h]

/-- The collecting scan of `JTAG_POSTED` (log 21). -/
theorem shiftScan_collect {s : State} (h : s.stage = .collect) (o : BitVec 35) :
    shiftScan o s = (logCall (.jtagDr o) s).setStage .ack := by
  simp [shiftScan, h]

/-- The bits of a posted request's scan are dropped (log 21). -/
theorem dropResponse_eq {s : State} {r : TapReply} {rest : List TapReply} (h : s.tapIn = r :: rest) :
    dropResponse s = (s.setTapIn rest).setStage (if isAp s.acc.addr then .collectIr else .collect) := by
  simp [dropResponse, h]

theorem acceptOk_swd {s : State} (hc : s.cont ≠ .scan) (hv : s.dp.variant = .swd) :
    acceptOk s = (moveFsm .dataPhase (logCall (.seqIn 3) s)).setStage .data := by
  have hw : s.wire = .swd := by rw [wire_of_not_scan hc, hv]
  have hr : receiveAck s = logCall (.seqIn 3) s := by simp [receiveAck, hw]
  have hm : moveFsmInAccess .dataPhase (logCall (.seqIn 3) s) = moveFsm .dataPhase (logCall (.seqIn 3) s) := by
    simp [moveFsmInAccess, hc]
  have hw' : (moveFsm .dataPhase (logCall (.seqIn 3) s)).wire = .swd := hw
  simp [acceptOk, hr, hm, hw']

theorem acceptOk_jtag {s : State} (hc : s.cont ≠ .scan) (hv : s.dp.variant = .jtag) :
    acceptOk s = returnAccess (if s.acc.rnw then s.acc.value else 0) .ok (moveFsm .idle (moveFsm .dataPhase s)) := by
  have hw : s.wire = .jtag := by rw [wire_of_not_scan hc, hv]
  have hr : receiveAck s = s := by simp [receiveAck, hw]
  have hm : moveFsmInAccess .dataPhase s = moveFsm .dataPhase s := by
    simp [moveFsmInAccess, hc]
  have hw' : (moveFsm .dataPhase s).wire = .jtag := hw
  simp [acceptOk, hr, hm, hw']

/-- A FAULT latches and returns (R137); the flush of `FLUSH_ON_NON_OK` goes out on SWD only. -/
theorem acceptFault_eq {s : State} (hc : s.cont ≠ .scan) (hfl : s.cfg.flushOnNonOk = false) :
    acceptFault s = returnAccess 0 .fault (moveFsm .idle (latchFault (moveFsm .faulted (receiveAck s)))) := by
  have hr : (receiveAck s).cont = s.cont ∧ (receiveAck s).cfg = s.cfg := by
    unfold receiveAck
    split <;> exact ⟨rfl, rfl⟩
  simp [acceptFault, hr, hc, flushNonOk, hfl]

theorem receiveData_good {s : State} {v : Word} {p : Bool} (h : p = evenParity v) :
    receiveData v p s = ((logCall (.seqInPar 32) s).setAcc { s.acc with value := v }).setStage .flush := by
  simp [receiveData, h]

theorem flushLine_eq {s : State} (hc : s.cont ≠ .scan) :
    flushLine s = returnAccess s.acc.value .ok (moveFsm .idle (logCall (.seqOut 0 8) s)) := by
  simp [flushLine, hc, Config.flushValue, Config.flushBits]

/-- The moves of an access up to the acknowledge, SWD: short-circuit test, clock, request (R132). -/
theorem steps_request_swd {s : State} {now : Word} {clk : List Word} (hst : s.stage = .start) (hc : s.cont ≠ .scan)
    (hf : ¬ (isAp s.acc.addr = true ∧ s.dp.fault = true)) (hv : s.dp.variant = .swd) (hclk : s.clkIn = now :: clk) :
    Steps 3 s ((logCall (.seqOut (s.acc.request.setWidth 32) 8)
      (moveFsm .requestSent ((((logCall .nowMs s).setClkIn clk).setT0 now).setStage .request))).setStage .ack) := by
  refine Steps.cons (linkStep_start hst) ?_
  rw [startAccess_go hf hc, hv]
  refine Steps.cons (linkStep_clock (State.setStage_stage _ _) (by simpa using hclk)) ?_
  rw [sampleT0_eq (clk := clk) (now := now) (by simpa using hclk)]
  refine Steps.one ?_
  rw [linkStep_request_swd rfl (by rw [wire_of_not_scan] <;> simp [hc, hv]), sendRequest_eq (by simpa using hc)]
  congr 1

/-- The moves of an access up to its request, JTAG: short-circuit test, IR, clock (R133). -/
theorem steps_open_jtag {s : State} {now : Word} {clk : List Word} (hst : s.stage = .start) (hc : s.cont ≠ .scan)
    (hf : ¬ (isAp s.acc.addr = true ∧ s.dp.fault = true)) (hv : s.dp.variant = .jtag) (hclk : s.clkIn = now :: clk) :
    Steps 3 s ((((logCall .nowMs (logCall (.jtagIr (irCode s.acc.addr)) s)).setClkIn clk).setT0 now).setStage
      .request) := by
  refine Steps.cons (linkStep_start hst) ?_
  rw [startAccess_go hf hc, hv]
  refine Steps.cons (linkStep_ir (State.setStage_stage _ _)) ?_
  refine Steps.one ?_
  rw [loadIr, State.setStage_stage]
  refine (linkStep_clock (State.setStage_stage _ _) (by simpa using hclk)).trans ?_
  rw [sampleT0_eq (clk := clk) (now := now) (by simpa using hclk)]
  refine congrArg Host.Outcome.next (State.ext ?_ ?_ ?_ ?_ ?_ ?_ ?_ ?_ ?_ ?_ ?_ ?_ ?_ ?_ ?_ ?_ ?_) <;> simp

/-- A state whose attempt over JTAG has been made: the acknowledge is due, with its scan first in `tapIn` (R133). -/
def State.attempted (s : State) (tap : List TapReply) : State :=
  { s with trace := (attemptCalls .jtag s.cfg s.acc.rnw s.acc.addr s.acc.wval).reverse ++ s.trace,
           fsm := .requestSent, fsmLog := .requestSent :: s.fsmLog, tapIn := tap, stage := .ack }

@[simp] theorem attempted_stage (s : State) (tap : List TapReply) : (s.attempted tap).stage = .ack := rfl
@[simp] theorem attempted_cont (s : State) (tap : List TapReply) : (s.attempted tap).cont = s.cont := rfl
@[simp] theorem attempted_dp (s : State) (tap : List TapReply) : (s.attempted tap).dp = s.dp := rfl
@[simp] theorem attempted_cfg (s : State) (tap : List TapReply) : (s.attempted tap).cfg = s.cfg := rfl
@[simp] theorem attempted_tapIn (s : State) (tap : List TapReply) : (s.attempted tap).tapIn = tap := rfl

/-- The moves of one attempt over JTAG, up to its acknowledge: one scan, or with `JTAG_POSTED` two (R133, U11). -/
theorem steps_attempt_jtag {s : State} {r : TapReply} {rest : List TapReply} (hst : s.stage = .request)
    (hc : s.cont ≠ .scan) (hv : s.dp.variant = .jtag) (hs : scansGive s.cfg r s.tapIn rest) :
    ∃ k, Steps k s (s.attempted (r :: rest)) ∧ k + 8 * (rest.length + 1) ≤ 8 * s.tapIn.length + 1 := by
  have h1 := linkStep_request_jtag hst (by rw [wire_of_not_scan hc, hv])
  rw [shiftScan_request hst] at h1
  cases hp : s.cfg.jtagPosted with
  | false =>
    rw [scansGive, hp] at hs
    refine ⟨1, Steps.one (h1.trans (congrArg Host.Outcome.next ?_)), by simp [show s.tapIn = r :: rest from hs]; omega⟩
    apply State.ext <;>
      simp [State.attempted, attemptCalls, Access.scanWord, hp, show s.tapIn = r :: rest from hs]
  | true =>
    rw [scansGive, hp] at hs
    obtain ⟨d, ht⟩ := hs
    rw [hp, if_pos rfl] at h1
    have h2 := linkStep_drain (s := (logCall (.jtagDr s.acc.scanWord) (moveFsm .requestSent s)).setStage .drain)
      (State.setStage_stage _ _) (r := d) (rest := r :: rest) (by simpa using ht)
    rw [dropResponse_eq (r := d) (rest := r :: rest) (by simpa using ht)] at h2
    simp only [State.setStage_acc, logCall_acc, moveFsm_acc] at h2
    cases ha : isAp s.acc.addr with
    | false =>
      refine ⟨3, Steps.cons h1 (Steps.cons h2 (Steps.one ?_)), by simp [ht]; omega⟩
      rw [linkStep_collect (by simp [ha]), shiftScan_collect (by simp [ha])]
      refine congrArg Host.Outcome.next (State.ext ?_ ?_ ?_ ?_ ?_ ?_ ?_ ?_ ?_ ?_ ?_ ?_ ?_ ?_ ?_ ?_ ?_) <;>
        simp [State.attempted, attemptCalls, Access.scanWord, hp, ha]
      rfl
    | true =>
      refine ⟨4, Steps.cons h1 (Steps.cons h2 (Steps.cons (linkStep_collectIr (by simp [ha])) (Steps.one ?_))),
        by simp [ht]; omega⟩
      rw [loadIr, show afterIr _ = Stage.collect by simp [ha, afterIr], linkStep_collect (State.setStage_stage _ _),
        shiftScan_collect (State.setStage_stage _ _)]
      refine congrArg Host.Outcome.next (State.ext ?_ ?_ ?_ ?_ ?_ ?_ ?_ ?_ ?_ ?_ ?_ ?_ ?_ ?_ ?_ ?_ ?_) <;>
        simp [State.attempted, attemptCalls, Access.scanWord, hp, ha]
      exact ⟨rfl, rfl⟩

/-- The moves of an access up to its acknowledge, JTAG (R133). -/
theorem steps_request_jtag {s : State} {now : Word} {clk : List Word} {r : TapReply} {rest : List TapReply}
    (hst : s.stage = .start) (hc : s.cont ≠ .scan) (hf : ¬ (isAp s.acc.addr = true ∧ s.dp.fault = true))
    (hv : s.dp.variant = .jtag) (hclk : s.clkIn = now :: clk) (hs : scansGive s.cfg r s.tapIn rest) :
    ∃ k, Steps k s
      (((((logCall .nowMs (logCall (.jtagIr (irCode s.acc.addr)) s)).setClkIn clk).setT0 now).setStage
        .request).attempted (r :: rest)) ∧
      k + 8 * (rest.length + 1) ≤ 8 * s.tapIn.length + 4 := by
  have h3 := steps_open_jtag hst hc hf hv hclk
  obtain ⟨k, hk, hk'⟩ := steps_attempt_jtag (s := (((logCall .nowMs (logCall (.jtagIr (irCode s.acc.addr))
    s)).setClkIn clk).setT0 now).setStage .request) (State.setStage_stage _ _) (by simpa using hc) (by simpa using hv)
    (r := r) (rest := rest) (by simpa using hs)
  exact ⟨3 + k, h3.trans hk, by simp at hk'; omega⟩

/-- Two states that differ in phase and transaction alone are the same to the command that goes on. -/
theorem resume_congr {v : Word} {o : AccessOutcome} {s t : State} (h : s = t.moved s.stage s.acc) :
    resume v o s = resume v o t := by
  rw [h, resume_moved]

/-- The move at an acknowledge OK, SWD (R134). -/
theorem linkStep_ok_swd {s : State} {a : TapReply} {rest : List TapReply} (hst : s.stage = .ack) (hc : s.cont ≠ .scan)
    (hv : s.dp.variant = .swd) (ht : s.tapIn = a :: rest) (ha : a.ack = 0b001) :
    linkStep s = .next ((moveFsm .dataPhase (logCall (.seqIn 3) (s.setTapIn rest))).setStage .data) := by
  rw [linkStep_ack_swd hst (by rw [wire_of_not_scan hc, hv]) ht, show a.bits.extractLsb' 0 3 = 0b001 from ha, react_ok,
    acceptOk_swd (by simpa using hc) (by simpa using hv)]

/-- The move at an acknowledge OK, JTAG: the access returns (R133, R134). -/
theorem linkStep_ok_jtag {s : State} {a : TapReply} {rest : List TapReply} (hst : s.stage = .ack) (hc : s.cont ≠ .scan)
    (hv : s.dp.variant = .jtag) (ht : s.tapIn = a :: rest) (ha : jtagAck s.cfg a.ack = 0b001) :
    linkStep s = .next (resume (if s.acc.rnw then a.scanData else 0) .ok
      (forgetT0 (moveFsm .idle (moveFsm .dataPhase (s.setTapIn rest))))) := by
  rw [linkStep_ack_jtag hst (by rw [wire_of_not_scan hc, hv]) ht,
    show jtagAck s.cfg (a.bits.extractLsb' 0 3) = 0b001 from ha, react_ok,
    acceptOk_jtag (by simpa using hc) (by simpa using hv), returnAccess]
  simp only [State.setAcc_acc]
  refine congrArg Host.Outcome.next (resume_congr ?_)
  apply State.ext <;> simp [State.moved]

/-- The move at a FAULT (R137): latch and return; the transaction is over on both links. -/
theorem linkStep_fault {s : State} {a : TapReply} {rest : List TapReply} (hst : s.stage = .ack) (hc : s.cont ≠ .scan)
    (hfl : s.cfg.flushOnNonOk = false) (ht : s.tapIn = a :: rest)
    (ha : match s.dp.variant with | .swd => a.ack = 0b100 | .jtag => jtagAck s.cfg a.ack = 0b100) :
    linkStep s = .next (resume 0 .fault (forgetT0 (moveFsm .idle (latchFault (moveFsm .faulted
      (match s.dp.variant with
        | .swd => logCall (.seqIn 3) (s.setTapIn rest)
        | .jtag => s.setTapIn rest)))))) := by
  cases hv : s.dp.variant with
  | swd =>
    rw [hv] at ha
    rw [linkStep_ack_swd hst (by rw [wire_of_not_scan hc, hv]) ht, show a.bits.extractLsb' 0 3 = 0b100 from ha,
      react_fault, acceptFault_eq (by simpa using hc) (by simpa using hfl), receiveAck,
      wire_of_not_scan (by simpa using hc)]
    simp only [State.setTapIn_dp, hv]
    rfl
  | jtag =>
    rw [hv] at ha
    rw [linkStep_ack_jtag hst (by rw [wire_of_not_scan hc, hv]) ht,
      show jtagAck s.cfg (a.bits.extractLsb' 0 3) = 0b100 from ha,
      react_fault, acceptFault_eq (by simpa using hc) (by simpa using hfl), receiveAck,
      wire_of_not_scan (by simpa using hc)]
    simp only [State.setAcc_dp, State.setTapIn_dp, hv, returnAccess]
    refine congrArg Host.Outcome.next (resume_congr ?_)
    apply State.ext <;> simp [State.moved]

/-- The move at a received data phase with good parity (R132). -/
theorem linkStep_data_good {s : State} {d : TapReply} {rest : List TapReply} (hst : s.stage = .data)
    (hr : s.acc.rnw = true) (ht : s.tapIn = d :: rest) (hp : d.parityOk = true) :
    linkStep s = .next (((logCall (.seqInPar 32) (s.setTapIn rest)).setAcc { s.acc with value := d.word }).setStage
      .flush) := by
  rw [linkStep_data_read hst hr ht, receiveData_good (by simp [hp])]
  rfl

/-- The move at a sent data phase (R132). -/
theorem linkStep_data_sent {s : State} (hst : s.stage = .data) (hr : s.acc.rnw = false) :
    linkStep s = .next ((logCall (.seqOutPar s.acc.wval 32) (s.setAcc { s.acc with value := 0 })).setStage .flush) := by
  rw [linkStep_data_write hst hr]
  rfl

/-- The move at the flush: the access returns (R132). -/
theorem linkStep_flush_return {s : State} (hst : s.stage = .flush) (hc : s.cont ≠ .scan) :
    linkStep s = .next (resume s.acc.value .ok (forgetT0 (moveFsm .idle (logCall (.seqOut 0 8) s)))) := by
  rw [linkStep_flush hst, flushLine_eq hc, returnAccess]

/-- A chain that reaches the point after an access with `tap` and `clk` left. -/
theorem runs_of_steps {s t : State} {k : Nat} {tap : List TapReply} {clk : List Word} (h : Steps k s t)
    (ht : t.tapIn = tap ∧ t.clkIn = clk) (hk : k + 8 * (tap.length + clk.length) ≤ 8 * s.answers) : Runs s t := by
  refine ⟨k, h, ?_⟩
  unfold State.answers at hk ⊢
  rw [ht.1, ht.2]
  exact hk

/-- An access served OK at the first attempt returns to its command with its value (R132, R133, R134). -/
theorem runs_access_ok {s : State} {rnw : Bool} {addr : BitVec 9} {wval val now : Word} {k : Cont}
    {tap : List TapReply} {clk : List Word} (hk : k ≠ .scan) (hf : ¬ (isAp addr = true ∧ s.dp.fault = true))
    (hclk : s.clkIn = now :: clk) (hs : servesOk s.dp.variant s.cfg rnw val s.tapIn tap) :
    Runs (beginAccess rnw addr wval k s) (resume val .ok ((s.afterOk rnw addr wval tap clk).setCont k)) := by
  cases hv : s.dp.variant with
  | swd =>
    have h3 := steps_request_swd (s := beginAccess rnw addr wval k s) rfl hk hf hv hclk
    rw [hv] at hs
    cases rnw with
    | true =>
      obtain ⟨a, d, htap, ha, hd, rfl⟩ := hs
      refine runs_of_steps (k := 3 + 3) (tap := tap) (clk := clk) (h3.trans ?_) ?_ (by simp [State.answers, htap, hclk]; omega)
      · refine Steps.cons (linkStep_ok_swd rfl (by simpa using hk) (by simpa using hv) (by simpa using htap) ha) ?_
        refine Steps.cons (linkStep_data_good rfl (by simp) rfl hd) ?_
        refine Steps.cons (linkStep_flush_return rfl (by simpa using hk)) ?_
        rw [resume_congr (t := (s.afterOk true addr wval tap clk).setCont k)]
        · exact Steps.refl _
        · apply State.ext <;>
            simp [State.moved, State.afterOk, State.afterCalls, requestCalls, openingCalls, attemptCalls, dataCalls, hv, Access.request]
      · exact ⟨(resume_quiet _ _ _).tapIn, (resume_quiet _ _ _).clkIn⟩
    | false =>
      obtain ⟨⟨a, htap, ha⟩, rfl⟩ := hs
      refine runs_of_steps (k := 3 + 3) (tap := tap) (clk := clk) (h3.trans ?_) ?_ (by simp [State.answers, htap, hclk]; omega)
      · refine Steps.cons (linkStep_ok_swd rfl (by simpa using hk) (by simpa using hv) (by simpa using htap) ha) ?_
        refine Steps.cons (linkStep_data_sent rfl (by simp)) ?_
        refine Steps.cons (linkStep_flush_return rfl (by simpa using hk)) ?_
        rw [resume_congr (t := (s.afterOk false addr wval tap clk).setCont k)]
        · exact Steps.refl _
        · apply State.ext <;>
            simp [State.moved, State.afterOk, State.afterCalls, requestCalls, openingCalls, attemptCalls, dataCalls, hv, Access.request]
      · exact ⟨(resume_quiet _ _ _).tapIn, (resume_quiet _ _ _).clkIn⟩
  | jtag =>
    rw [hv] at hs
    have hr : ∃ r, scansGive s.cfg r s.tapIn tap ∧ jtagAck s.cfg r.ack = 0b001 ∧
        (if rnw then r.scanData else 0) = val := by
      cases rnw with
      | true =>
        obtain ⟨r, htap, ha, rfl⟩ := hs
        exact ⟨r, htap, ha, rfl⟩
      | false =>
        obtain ⟨⟨r, htap, ha⟩, rfl⟩ := hs
        exact ⟨r, htap, ha, rfl⟩
    obtain ⟨r, htap, ha, rfl⟩ := hr
    obtain ⟨n, h4, hn⟩ := steps_request_jtag (s := beginAccess rnw addr wval k s) rfl hk hf hv hclk htap
    refine runs_of_steps (k := n + 1) (tap := tap) (clk := clk) (h4.trans ?_) ?_
      (by simp [State.answers, hclk] at hn ⊢; omega)
    · refine Steps.cons (linkStep_ok_jtag (attempted_stage _ _) (by simpa using hk) (by simpa using hv)
        (attempted_tapIn _ _) (by simpa using ha)) ?_
      rw [resume_congr (t := (s.afterOk rnw addr wval tap clk).setCont k)]
      · exact Steps.refl _
      · apply State.ext <;>
          simp [State.moved, State.attempted, State.afterOk, State.afterCalls, requestCalls, openingCalls, dataCalls, hv]
    · exact ⟨(resume_quiet _ _ _).tapIn, (resume_quiet _ _ _).clkIn⟩

/-- An access answered FAULT returns `(0, FAULT)` with the latch set (R137). -/
theorem runs_access_fault {s : State} {rnw : Bool} {addr : BitVec 9} {wval now : Word} {k : Cont}
    {tap : List TapReply} {clk : List Word} (hk : k ≠ .scan) (hf : ¬ (isAp addr = true ∧ s.dp.fault = true))
    (hfl : s.cfg.flushOnNonOk = false) (hclk : s.clkIn = now :: clk)
    (hs : servesFault s.dp.variant s.cfg s.tapIn tap) :
    Runs (beginAccess rnw addr wval k s) (resume 0 .fault ((s.afterFault rnw addr wval tap clk).setCont k)) := by
  cases hv : s.dp.variant with
  | swd =>
    have h3 := steps_request_swd (s := beginAccess rnw addr wval k s) rfl hk hf hv hclk
    rw [hv] at hs
    obtain ⟨a, htap, ha⟩ := hs
    refine runs_of_steps (k := 3 + 1) (tap := tap) (clk := clk) (h3.trans ?_) ?_ (by simp [State.answers, htap, hclk]; omega)
    · refine Steps.cons (linkStep_fault rfl (by simpa using hk) (by simpa using hfl) (by simpa using htap)
        (by simpa [hv, TapReply.row] using ha)) ?_
      simp only [State.setStage_dp, logCall_dp, moveFsm_dp, State.setT0_dp, State.setClkIn_dp, beginAccess_dp, hv]
      rw [resume_congr (t := (s.afterFault rnw addr wval tap clk).setCont k)]
      · exact Steps.refl _
      · apply State.ext <;>
          simp [State.moved, State.afterFault, State.afterCalls, requestCalls, openingCalls, attemptCalls, hv, Access.request]
    · exact ⟨(resume_quiet _ _ _).tapIn, (resume_quiet _ _ _).clkIn⟩
  | jtag =>
    rw [hv] at hs
    obtain ⟨a, htap, ha⟩ := hs
    obtain ⟨n, h4, hn⟩ := steps_request_jtag (s := beginAccess rnw addr wval k s) rfl hk hf hv hclk htap
    refine runs_of_steps (k := n + 1) (tap := tap) (clk := clk) (h4.trans ?_) ?_
      (by simp [State.answers, hclk] at hn ⊢; omega)
    · refine Steps.cons (linkStep_fault (attempted_stage _ _) (by simpa using hk) (by simpa using hfl)
        (attempted_tapIn _ _) (by simpa [hv, TapReply.row] using ha)) ?_
      rw [resume_congr (t := (s.afterFault rnw addr wval tap clk).setCont k)]
      · exact Steps.refl _
      · apply State.ext <;>
          simp [State.moved, State.attempted, State.afterFault, State.afterCalls, requestCalls, openingCalls, hv]
    · exact ⟨(resume_quiet _ _ _).tapIn, (resume_quiet _ _ _).clkIn⟩

/-- An AP-addressed access on a latched fault is one move and no call (R131). -/
theorem steps_access_skip {s : State} {rnw : Bool} {addr : BitVec 9} {wval : Word} {k : Cont}
    (ha : isAp addr = true) (hf : s.dp.fault = true) :
    Steps 1 (beginAccess rnw addr wval k s)
      (resume 0 .skipped ((forgetT0 (moveFsm .idle (moveFsm .faulted s))).setCont k)) := by
  refine Steps.one ?_
  rw [linkStep_start rfl, startAccess_skip ⟨by simpa using ha, by simpa using hf⟩, returnAccess]
  refine congrArg Host.Outcome.next (resume_congr ?_)
  apply State.ext <;> simp [State.moved]

end Sys2Proof.Machine
end

