-- ==== Sys2Proof/Laws/Memory.lean ====
section
/-! SUPPORT. The host buffer: a read after a write, and the canonical form that every operation keeps. -/

namespace Sys2Proof.Machine.Memory

theorem read_insert_same (i : Nat) (b : Byte) (m : List Host.Cell) (h : ∀ c ∈ m, c.1 ≠ i) :
    read (insert i b m) i = b := by
  induction m with
  | nil => simp [insert, read]
  | cons c m ih =>
    obtain ⟨j, x⟩ := c
    have hj : j ≠ i := h (j, x) (by simp)
    unfold insert
    split
    · simp [read]
    · simp [read, hj, ih (fun c hc => h c (by simp [hc]))]

theorem read_insert_other (i k : Nat) (b : Byte) (m : List Host.Cell) (hk : i ≠ k) :
    read (insert i b m) k = read m k := by
  induction m with
  | nil => simp [insert, read, hk]
  | cons c m ih =>
    obtain ⟨j, x⟩ := c
    unfold insert
    split
    · simp [read, hk]
    · simp [read, ih]

theorem read_filter_other (i k : Nat) (m : List Host.Cell) (hk : i ≠ k) :
    read (m.filter (fun c => c.1 != i)) k = read m k := by
  induction m with
  | nil => rfl
  | cons c m ih =>
    obtain ⟨j, x⟩ := c
    by_cases hj : j = i
    · subst hj
      simp [read, ih, hk]
    · simp [read, ih, hj]

theorem read_absent (m : List Host.Cell) (i : Nat) (h : ∀ c ∈ m, c.1 ≠ i) : read m i = unwritten := by
  induction m with
  | nil => rfl
  | cons c m ih =>
    obtain ⟨j, x⟩ := c
    have hj : j ≠ i := h (j, x) (by simp)
    simp [read, hj, ih (fun c hc => h c (by simp [hc]))]

theorem filter_absent (m : List Host.Cell) (i : Nat) : ∀ c ∈ m.filter (fun c => c.1 != i), c.1 ≠ i := by
  intro c hc
  simpa using (List.mem_filter.mp hc).2

/-- A byte reads back as it was written, whatever list memory is. -/
@[simp] theorem read_write_same (m : List Host.Cell) (i : Nat) (b : Byte) : read (write m i b) i = b := by
  unfold write
  by_cases hb : b = unwritten
  · simp only [hb, if_true]
    exact read_absent _ _ (filter_absent m i)
  · simp only [hb, if_false]
    exact read_insert_same _ _ _ (filter_absent m i)

/-- A write leaves every other byte alone. -/
theorem read_write_other (m : List Host.Cell) (i k : Nat) (b : Byte) (hk : i ≠ k) :
    read (write m i b) k = read m k := by
  unfold write
  by_cases hb : b = unwritten
  · simp only [hb, if_true]
    exact read_filter_other i k m hk
  · simp only [hb, if_false]
    rw [read_insert_other i k b _ hk, read_filter_other i k m hk]

/-- What a block of writes leaves at each index. -/
theorem read_writeBytes (m : List Host.Cell) (i k : Nat) (bs : List Byte) :
    read (writeBytes m i bs) k = if i ≤ k then (bs[k - i]?).getD (read m k) else read m k := by
  induction bs generalizing m i with
  | nil => simp [writeBytes]
  | cons b bs ih =>
    rw [writeBytes, ih]
    by_cases hk : k = i
    · subst hk
      simp
    · rw [read_write_other _ _ _ _ (Ne.symm hk)]
      by_cases hle : i ≤ k
      · have h1 : i + 1 ≤ k := by omega
        have h2 : k - i = (k - (i + 1)) + 1 := by omega
        simp [hle, h1, h2]
      · have h1 : ¬ (i + 1 ≤ k) := by omega
        simp [hle, h1]

/-- A block of writes leaves the bytes outside it alone. -/
theorem read_writeBytes_outside (m : List Host.Cell) (i k : Nat) (bs : List Byte)
    (h : k < i ∨ i + bs.length ≤ k) : read (writeBytes m i bs) k = read m k := by
  rw [read_writeBytes]
  split
  · have : bs[k - i]? = none := by
      apply List.getElem?_eq_none
      omega
    simp [this]
  · rfl

/-! ### The canonical form -/

/-- The canonical form as a property of neighbours: every index lies below those after it. -/
theorem wf_cons (c : Host.Cell) (m : List Host.Cell) :
    wf (c :: m) = true ↔ c.2 ≠ unwritten ∧ (∀ d ∈ m.head?, c.1 < d.1) ∧ wf m = true := by
  cases m with
  | nil => simp [wf]
  | cons d m => simp [wf, and_assoc]

theorem wf_lower (c : Host.Cell) (m : List Host.Cell) (h : wf (c :: m) = true) : ∀ d ∈ m, c.1 < d.1 := by
  induction m generalizing c with
  | nil => simp
  | cons d m ih =>
    obtain ⟨-, h2, h3⟩ := (wf_cons _ _).mp h
    have hcd : c.1 < d.1 := h2 d (by simp)
    intro e he
    rcases List.mem_cons.mp he with rfl | he
    · exact hcd
    · exact lt_trans hcd (ih d h3 e he)

theorem wf_of_lower (c : Host.Cell) (m : List Host.Cell) (hc : c.2 ≠ unwritten) (hl : ∀ d ∈ m, c.1 < d.1)
    (hm : wf m = true) : wf (c :: m) = true := by
  rw [wf_cons]
  refine ⟨hc, ?_, hm⟩
  intro d hd
  exact hl d (List.mem_of_mem_head? hd)

theorem wf_filter (m : List Host.Cell) (p : Host.Cell → Bool) (h : wf m = true) : wf (m.filter p) = true := by
  induction m with
  | nil => simpa using h
  | cons c m ih =>
    have hm := ((wf_cons _ _).mp h).2.2
    by_cases hp : p c = true
    · rw [List.filter_cons_of_pos hp]
      exact wf_of_lower _ _ ((wf_cons _ _).mp h).1
        (fun d hd => wf_lower c m h d (List.mem_filter.mp hd).1) (ih hm)
    · rw [List.filter_cons_of_neg hp]
      exact ih hm

theorem mem_insert (i : Nat) (b : Byte) (m : List Host.Cell) (d : Host.Cell) (hd : d ∈ insert i b m) :
    d = (i, b) ∨ d ∈ m := by
  induction m with
  | nil => simpa [insert] using hd
  | cons c m ih =>
    unfold insert at hd
    split at hd
    · rcases List.mem_cons.mp hd with h | h
      · exact .inl h
      · exact .inr h
    · rcases List.mem_cons.mp hd with h | h
      · exact .inr (by simp [h])
      · rcases ih h with h | h
        · exact .inl h
        · exact .inr (by simp [h])

theorem wf_insert (i : Nat) (b : Byte) (m : List Host.Cell) (hb : b ≠ unwritten) (hi : ∀ c ∈ m, c.1 ≠ i)
    (h : wf m = true) : wf (insert i b m) = true := by
  induction m with
  | nil => simpa [insert, wf] using hb
  | cons c m ih =>
    have hm := ((wf_cons _ _).mp h).2.2
    have hci : c.1 ≠ i := hi c (by simp)
    unfold insert
    split
    · next hlt =>
      refine wf_of_lower _ _ hb ?_ h
      intro d hd
      rcases List.mem_cons.mp hd with rfl | hd
      · exact hlt
      · exact lt_trans hlt (wf_lower _ _ h d hd)
    · next hge =>
      refine wf_of_lower _ _ ((wf_cons _ _).mp h).1 ?_ (ih (fun d hd => hi d (by simp [hd])) hm)
      intro d hd
      rcases mem_insert i b m d hd with rfl | hd
      · exact lt_of_le_of_ne (not_lt.mp hge) hci
      · exact wf_lower c m h d hd

/-- A write keeps the canonical form. -/
theorem wf_write (m : List Host.Cell) (i : Nat) (b : Byte) (h : wf m = true) : wf (write m i b) = true := by
  unfold write
  by_cases hb : b = unwritten
  · simp only [hb, if_true]
    exact wf_filter m _ h
  · simp only [hb, if_false]
    exact wf_insert _ _ _ hb (filter_absent m i) (wf_filter m _ h)

/-- A block of writes keeps the canonical form. -/
theorem wf_writeBytes (m : List Host.Cell) (i : Nat) (bs : List Byte) (h : wf m = true) :
    wf (writeBytes m i bs) = true := by
  induction bs generalizing m i with
  | nil => exact h
  | cons b bs ih => exact ih _ _ (wf_write m i b h)

end Sys2Proof.Machine.Memory
end

