-- ==== Sys2Proof/Laws/Between.lean ====
section
/-! SUPPORT. What the running command does between its accesses keeps the invariant: each piece of the sequencer leads from
a state at rest to one that meets `State.Inv`. -/

namespace Sys2Proof.Machine

/-- What holds while no access is under way: the parts of the invariant that do not speak of the phase. -/
structure AtRest (s : State) : Prop where
  hbufCanonical : Memory.wf s.hbuf = true
  absentNoCache : ∀ i, s.apPresent i = false → s.cswCache i = none ∧ s.tarCache i = none
  nothingWithoutDp : s.dp.valid = false → s.dp.fault = false ∧ s.dp.selCache = none ∧ ∀ i, s.apPresent i = false
  fsmIdle : s.fsm = .idle
  fsmMoves : fsmPath s.fsmLog = true ∧ s.fsm = lastFsm s.fsmLog

/-- The end of a command. -/
theorem finish_inv {s : State} (h : AtRest s) (r : Status) : (finish r s).Inv := by
  have ha : ∀ k, (finish r s).ap k = s.ap k := by simp [State.ap]
  refine ⟨by simpa using h.hbufCanonical, ?_, ?_, by simp [Cont.namesAp], by simp, ?_, ?_, by simpa using h.fsmMoves,
    ?_⟩
  · simpa only [State.apPresent, State.cswCache, State.tarCache, ha] using h.absentNoCache
  · simpa only [State.apPresent, ha, finish_dp] using h.nothingWithoutDp
  · simp [phaseFits]
  · simp [fsmAt, h.fsmIdle]
  · simp [windowFits]

/-- The begin of an access. -/
theorem beginAccess_inv {s : State} (h : AtRest s) (hv : s.dp.valid = true) {rnw addr wval k} (hn : k ≠ .none)
    (hk : k ≠ .scan) (ha : k.namesAp = true → s.apPresent s.port.argAp = true) (hw : windowFits (s.setCont k)) :
    (beginAccess rnw addr wval k s).Inv := by
  refine ⟨h.hbufCanonical, h.absentNoCache, h.nothingWithoutDp, ha, by simp [hv, hk], ?_, ?_, h.fsmMoves, hw⟩
  · unfold phaseFits
    simp only [beginAccess_cont, beginAccess_stage]
    cases k <;> simp_all
  · simp [fsmAt, h.fsmIdle, hk]

/-- The parts of `AtRest` look at five fields. -/
theorem atRest_of_eq {s t : State} (h : AtRest s) (h1 : t.hbuf = s.hbuf) (h2 : t.aps = s.aps) (h3 : t.dp = s.dp)
    (h4 : t.fsm = s.fsm) (h5 : t.fsmLog = s.fsmLog) : AtRest t := by
  have ha : ∀ k, t.ap k = s.ap k := by simp [State.ap, h2]
  refine ⟨h1 ▸ h.hbufCanonical, ?_, ?_, h4 ▸ h.fsmIdle, ?_⟩
  · simpa only [State.apPresent, State.cswCache, State.tarCache, ha] using h.absentNoCache
  · simpa only [State.apPresent, ha, h3] using h.nothingWithoutDp
  · rw [h5, h4]; exact h.fsmMoves

theorem atRest_setRspValue {s : State} (h : AtRest s) (v) : AtRest (setRspValue v s) :=
    atRest_of_eq h rfl rfl rfl rfl rfl

theorem atRest_setRspCount {s : State} (h : AtRest s) (v) : AtRest (setRspCount v s) :=
    atRest_of_eq h rfl rfl rfl rfl rfl

@[simp] theorem apPresent_setCswCache {s : State} (i k c) : (setCswCache i c s).apPresent k = s.apPresent k := by
  simp only [State.apPresent, ap_setCswCache]
  split <;> rfl

@[simp] theorem apPresent_setTarCache {s : State} (i k c) : (setTarCache i c s).apPresent k = s.apPresent k := by
  simp only [State.apPresent, ap_setTarCache]
  split <;> rfl

@[simp] theorem apPresent_invalidateApCaches {s : State} (k) : (invalidateApCaches s).apPresent k = s.apPresent k := by
  simp [State.apPresent, AccessPort.dropCaches]

@[simp] theorem apPresent_apCacheEffects {s : State} (i reg w v o k) :
    (apCacheEffects i reg w v o s).apPresent k = s.apPresent k := by
  unfold apCacheEffects
  repeat' split
  all_goals simp

theorem atRest_setCswCache {s : State} (h : AtRest s) (hv : s.dp.valid = true) {i} (hp : s.apPresent i = true) (c) :
    AtRest (setCswCache i c s) := by
  refine ⟨h.hbufCanonical, fun k hk => ?_, by simp [hv], h.fsmIdle, h.fsmMoves⟩
  rw [apPresent_setCswCache] at hk
  have hik : i ≠ k := by rintro rfl; simp [hp] at hk
  simpa [State.cswCache, State.tarCache, hik] using h.absentNoCache k hk

theorem atRest_setTarCache {s : State} (h : AtRest s) (hv : s.dp.valid = true) {i} (hp : s.apPresent i = true) (c) :
    AtRest (setTarCache i c s) := by
  refine ⟨h.hbufCanonical, fun k hk => ?_, by simp [hv], h.fsmIdle, h.fsmMoves⟩
  rw [apPresent_setTarCache] at hk
  have hik : i ≠ k := by rintro rfl; simp [hp] at hk
  simpa [State.cswCache, State.tarCache, hik] using h.absentNoCache k hk

theorem atRest_invalidateApCaches {s : State} (h : AtRest s) : AtRest (invalidateApCaches s) :=
  ⟨h.hbufCanonical, fun k _ => by simp [State.cswCache, State.tarCache, AccessPort.dropCaches],
    by simpa using h.nothingWithoutDp, h.fsmIdle, h.fsmMoves⟩

theorem atRest_setSelCache {s : State} (h : AtRest s) (hv : s.dp.valid = true) (c) : AtRest (setSelCache c s) :=
  ⟨h.hbufCanonical, h.absentNoCache, by simp [hv], h.fsmIdle, h.fsmMoves⟩

theorem atRest_apCacheEffects {s : State} (h : AtRest s) (hv : s.dp.valid = true) {i} (hp : s.apPresent i = true)
    (reg w v o) : AtRest (apCacheEffects i reg w v o s) := by
  unfold apCacheEffects
  repeat' split
  · exact atRest_setTarCache (atRest_setCswCache h hv hp _) hv (by simpa using hp) _
  · exact atRest_setCswCache h hv hp _
  · exact atRest_setTarCache h hv hp _
  · exact atRest_setTarCache h hv hp _
  · exact h

/-- The objects are gone (R248). -/
theorem atRest_discardAps {s : State} (h : AtRest s) (hv : s.dp.valid = true) : AtRest (discardAps s) :=
  ⟨h.hbufCanonical, fun k _ => by simp [State.cswCache, State.tarCache, AccessPort.discard], by simp [hv], h.fsmIdle,
    h.fsmMoves⟩

/-- An AP is found (R248). -/
theorem atRest_scanFound {s : State} (h : AtRest s) (hv : s.dp.valid = true) (i n idr) :
    AtRest (scanFound i n idr s) := by
  refine ⟨Memory.wf_writeBytes s.hbuf _ _ h.hbufCanonical, fun k hk => ?_, by simp [scanFound, hv], h.fsmIdle,
    h.fsmMoves⟩
  rw [State.apPresent, ap_scanFound] at hk
  split at hk
  · cases hk
  · next hi => simpa [State.cswCache, State.tarCache, hi] using h.absentNoCache k hk

/-- Whether a command names an AP is the same at each of its accesses. -/
theorem namesAp_ap (u : ApUse) (p q : ApPos) : (Cont.ap u p).namesAp = (Cont.ap u q).namesAp := by
  cases u <;> rfl

theorem apIssue_inv {s : State} (h : AtRest s) (hv : s.dp.valid = true) (u)
    (ha : (Cont.ap u .last).namesAp = true → s.apPresent s.port.argAp = true) : (apIssue u s).Inv := by
  cases u <;> exact beginAccess_inv h hv (by simp) (by simp) ha trivial

theorem apAccess_inv {s : State} (h : AtRest s) (hv : s.dp.valid = true) (u)
    (ha : (Cont.ap u .last).namesAp = true → s.apPresent s.port.argAp = true) : (apAccess u s).Inv := by
  unfold apAccess ensureSelect
  split
  · exact apIssue_inv h hv u ha
  · exact beginAccess_inv h hv (by simp) (by simp) (by rwa [namesAp_ap u _ .last]) trivial

theorem scanCandidate_inv {s : State} (h : AtRest s) (hv : s.dp.valid = true) (i n) : (scanCandidate i n s).Inv := by
  unfold scanCandidate
  split
  · exact finish_inv (atRest_setRspCount h _) _
  · split
    · exact finish_inv (atRest_setRspCount h _) _
    · exact apAccess_inv h hv _ (by simp [Cont.namesAp])

theorem scanNext_inv {s : State} (h : AtRest s) (hv : s.dp.valid = true) (i n idr) : (scanNext i n idr s).Inv := by
  unfold scanNext
  split
  · exact scanCandidate_inv (atRest_scanFound h hv i n idr) hv _ _
  · split
    · exact finish_inv (atRest_setRspCount h _) _
    · exact scanCandidate_inv h hv _ _

theorem apDone_inv {s : State} (h : AtRest s) (hv : s.dp.valid = true) (u v o)
    (ha : (Cont.ap u .last).namesAp = true → s.apPresent s.port.argAp = true) : (apDone u v o s).Inv := by
  cases u with
  | read => exact finish_inv (atRest_setRspValue (atRest_apCacheEffects h hv (ha rfl) _ _ _ _) _) _
  | write => exact finish_inv (atRest_apCacheEffects h hv (ha rfl) _ _ _ _) _
  | scan i n => exact scanNext_inv h hv _ _ _

theorem apResume_inv {s : State} (h : AtRest s) (hv : s.dp.valid = true) (u p v o)
    (ha : (Cont.ap u .last).namesAp = true → s.apPresent s.port.argAp = true) : (apResume u p v o s).Inv := by
  cases p with
  | select =>
    simp only [apResume]
    have h' : AtRest (selectWritten (u.select s) (bankOf (u.reg s)) o s) := atRest_setSelCache h hv _
    split
    · exact apIssue_inv h' hv u ha
    · exact apDone_inv h' hv _ _ _ ha
  | first =>
    simp only [apResume]
    split
    · exact beginAccess_inv h hv (by simp) (by simp) ha trivial
    · exact apDone_inv h hv _ _ _ ha
  | last => exact apDone_inv h hv _ _ _ ha

/-- The window of a transfer with `k` units of its chunk left (R24, R29, R68, R206). -/
structure TransferWindow (s : State) (k : Nat) : Prop where
  sz : s.win.sz ≠ 3
  inc : s.win.inc = 1
  al : s.win.a.toNat % unitSize s.win.sz = 0
  le : s.win.done.toNat + k ≤ s.win.units.toNat
  len : s.port.argLen.toNat = s.win.units.toNat * unitSize s.win.sz

theorem transferWindow_of_eq {s t : State} {k} (h : TransferWindow s k) (h1 : t.win = s.win) (h2 : t.port.argLen =
    s.port.argLen) : TransferWindow t k := by
  cases h; constructor <;> simp_all

theorem windowFits_of {s : State} {rd p} (h : TransferWindow s p.left) (hp : p.inChunk = true → 1 ≤ p.left) :
    windowFits (s.setCont (.mem rd p)) :=
  ⟨h.sz, h.inc, h.al, h.le, hp, h.len⟩

theorem memFault_inv {s : State} (h : AtRest s) (hv : s.dp.valid = true)
    (hap : s.apPresent s.port.argAp = true) (rd) {k} (hw : TransferWindow s k) :
    (memFault rd s).Inv := by
  unfold memFault
  refine beginAccess_inv (atRest_invalidateApCaches (atRest_setTarCache (atRest_setCswCache h hv hap _) hv
    (by simpa using hap) _)) hv (by simp) (by simp) (fun _ => by simpa using hap) ?_
  exact windowFits_of (p := .abort) ⟨hw.sz, hw.inc, hw.al, by have := hw.le; simp [MemPos.left]; omega, hw.len⟩
      (by simp [MemPos.inChunk])

/-- The test of R204 in literal fields. -/
theorem cswFits_some (sz : BitVec 2) (v : Word) :
    cswFits sz (some v) = (v.extractLsb' 0 3 == sz.setWidth 3 && v.extractLsb' 4 2 == 0b01#2) := rfl

/-- `TAR_WRAP_BITS` is 2 to 32 (log 30). -/
theorem tarWrapBits_bounds (c : Config) : 2 ≤ c.tarWrapBits ∧ c.tarWrapBits ≤ 32 := by
  have := c.tarWrapExtraBits.isLt
  unfold Config.tarWrapBits Config.tarWrapMinBits
  omega

/-- A word fits an auto-increment block a whole number of times (R206). -/
theorem block_words (c : Config) : ∃ q, 2 ^ c.tarWrapBits = 4 * q :=
  ⟨2 ^ c.tarWrapExtraBits.val, by simp [Config.tarWrapBits, Config.tarWrapMinBits, Nat.pow_add]⟩

/-- A chunk is not empty and holds no more than remain (R206). -/
theorem chunkUnits_bounds (c : Config) (w : Window) (hz : w.sz ≠ 3) (ha : w.a.toNat % unitSize w.sz = 0) (hl : w.done < w.units) :
    1 ≤ chunkUnits c w ∧ w.done.toNat + chunkUnits c w ≤ w.units.toNat := by
  have hl' : w.done.toNat < w.units.toNat := hl
  have h1 : (w.units - w.done).toNat = w.units.toNat - w.done.toNat := by
    rw [BitVec.toNat_sub_of_le]; exact BitVec.le_of_lt hl
  unfold chunkUnits
  rw [h1]
  have hs : w.sz.toNat = 0 ∨ w.sz.toNat = 1 ∨ w.sz.toNat = 2 := by
    have : ∀ z : BitVec 2, z ≠ 3 → z.toNat = 0 ∨ z.toNat = 1 ∨ z.toNat = 2 := by decide
    exact this _ hz
  unfold unitSize at ha
  obtain ⟨q, hq⟩ := block_words c
  have hp : 0 < 2 ^ c.tarWrapBits := Nat.two_pow_pos _
  have hm := Nat.mod_lt w.a.toNat hp
  have hd := Nat.div_add_mod w.a.toNat (2 ^ c.tarWrapBits)
  unfold blockOffset
  generalize w.a.toNat / 2 ^ c.tarWrapBits = d at hd
  rw [hq, Nat.mul_assoc] at hd
  rw [hq] at hm ⊢
  rcases hs with h | h | h <;> rw [h] at ha ⊢ <;> simp [Nat.shiftRight_eq_div_pow] at ha ⊢ <;> omega

theorem memData_inv {s : State} (h : AtRest s) (hv : s.dp.valid = true)
    (hap : s.apPresent s.port.argAp = true) (rd) {k} (hw : TransferWindow s k) (hk :
    1 ≤ k) : (memData rd k s).Inv := by
  unfold memData
  split
  · exact beginAccess_inv h hv (by simp) (by simp) (fun _ => hap) (windowFits_of (p := .prime k) hw (fun _ => hk))
  · exact beginAccess_inv h hv (by simp) (by simp) (fun _ => hap) (windowFits_of (p := .unit k) hw (fun _ => hk))

theorem memChunk_inv {s : State} (h : AtRest s) (hv : s.dp.valid = true)
    (hap : s.apPresent s.port.argAp = true) (rd) (hw : TransferWindow s 0) :
    (memChunk rd s).Inv := by
  unfold memChunk
  split
  · next hl =>
    have hc := chunkUnits_bounds s.cfg s.win hw.sz hw.al hl
    have hw' : TransferWindow s (chunkUnits s.cfg s.win) := ⟨hw.sz, hw.inc, hw.al, hc.2, hw.len⟩
    dsimp only
    split
    · exact memData_inv h hv hap rd hw' hc.1
    · exact beginAccess_inv h hv (by simp) (by simp) (fun _ => hap) (windowFits_of (p := .tar _) hw' (fun _ => hc.1))
  · exact finish_inv (atRest_setRspCount h _) _

theorem memCsw_inv {s : State} (h : AtRest s) (hv : s.dp.valid = true)
    (hap : s.apPresent s.port.argAp = true) (rd) (hw : TransferWindow s 0) :
    (memCsw rd s).Inv := by
  unfold memCsw
  split
  · exact memChunk_inv h hv hap rd hw
  · exact beginAccess_inv h hv (by simp) (by simp) (fun _ => hap) (windowFits_of (p := .csw) hw (by simp [MemPos.inChunk]))

theorem memReadNext_inv {s : State} (h : AtRest s) (hv : s.dp.valid = true)
    (hap : s.apPresent s.port.argAp = true) {k} (hw : TransferWindow s k) (hk :
    1 ≤ k) : (memReadNext k s).Inv := by
  unfold memReadNext
  split <;> exact beginAccess_inv h hv (by simp) (by simp) (fun _ => hap) (windowFits_of (p := .unit k) hw (fun _ => hk))

theorem memUnitDone_inv {s : State} (h : AtRest s) (hv : s.dp.valid = true)
    (hap : s.apPresent s.port.argAp = true) (rd) {k} (hw : TransferWindow s k) :
    (memUnitDone rd k s).Inv := by
  unfold memUnitDone
  split
  · next hk =>
    subst hk
    exact memChunk_inv (atRest_setTarCache h hv hap _) hv (by simpa using hap) rd (transferWindow_of_eq hw rfl rfl)
  · next hk =>
    split
    · exact memReadNext_inv h hv hap hw (by omega)
    · exact beginAccess_inv h hv (by simp) (by simp) (fun _ => hap) (windowFits_of (p := .unit k)
        hw (fun _ => Nat.one_le_iff_ne_zero.mpr hk))

theorem transferWindow_advance {s : State} {k} (hw : TransferWindow s k) (hk : 1 ≤ k) : TransferWindow (advanceWin s)
    (k - 1) := by
  refine ⟨hw.sz, hw.inc, ?_, ?_, hw.len⟩
  · simp
    have := hw.al
    have hs : ∀ z : BitVec 2, z ≠ 3 → (unitBytes z).toNat = unitSize z ∧ (unitSize z = 1 ∨ unitSize z =
        2 ∨ unitSize z = 4) := by decide
    obtain ⟨h1, h2⟩ := hs _ hw.sz
    rw [h1]
    rcases h2 with h | h | h <;> rw [h] at this ⊢ <;> omega
  · have := hw.le
    have hlt : s.win.units.toNat < 2^32 := s.win.units.isLt
    simp
    omega

theorem memResume_inv {s : State} (h : AtRest s) (hv : s.dp.valid = true)
    (hap : s.apPresent s.port.argAp = true) (rd p v o) (hw : TransferWindow s p.left)
    (hp : p.inChunk = true → 1 ≤ p.left) :
    (memResume rd p v o s).Inv := by
  cases p with
  | select =>
    simp only [memResume]
    have h' : AtRest (selectWritten s.port.argAp 0 o s) := atRest_setSelCache h hv _
    split
    · exact memCsw_inv h' hv hap rd (transferWindow_of_eq hw rfl rfl)
    · exact memFault_inv h' hv hap rd (k := 0) (transferWindow_of_eq hw rfl rfl)
  | csw =>
    simp only [memResume]
    split
    · exact memChunk_inv (atRest_setCswCache h hv hap _) hv (by simpa using hap) rd (transferWindow_of_eq hw rfl rfl)
    · exact memFault_inv h hv hap rd hw
  | tar k =>
    simp only [memResume]
    split
    · exact memData_inv (atRest_setTarCache h hv hap _) hv (by simpa using hap) rd (transferWindow_of_eq hw rfl rfl) (hp rfl)
    · exact memFault_inv h hv hap rd hw
  | prime k =>
    simp only [memResume]
    split
    · exact memReadNext_inv h hv hap hw (hp rfl)
    · exact memFault_inv h hv hap rd hw
  | unit k =>
    simp only [memResume]
    split
    · cases rd with
      | true =>
        have : TransferWindow (storeUnit v s) k := transferWindow_of_eq hw rfl rfl
        have h' : AtRest (advanceWin (storeUnit v s)) := ⟨Memory.wf_writeBytes s.hbuf _ _ h.hbufCanonical,
            h.absentNoCache, h.nothingWithoutDp, h.fsmIdle, h.fsmMoves⟩
        exact memUnitDone_inv h' hv hap true (transferWindow_advance this (hp rfl))
      | false =>
        have h' : AtRest (advanceWin s) := atRest_of_eq h rfl rfl rfl rfl rfl
        exact memUnitDone_inv h' hv hap false (transferWindow_advance hw (hp rfl))
    · exact memFault_inv h hv hap rd hw
  | abort => exact finish_inv (atRest_setRspCount h _) _

/-- From the end of an access, with the invariant's parts in place, the running command goes on to a state that meets the
invariant. -/
theorem resume_inv {s : State} (h : AtRest s) (hv : s.dp.valid = true) (v o) (hn : s.cont ≠ .none) (hs :
    s.cont ≠ .scan)
    (ha : s.cont.namesAp = true → s.apPresent s.port.argAp = true) (hw : windowFits s) : (resume v o s).Inv := by
  unfold resume
  split
  · next hc => exact absurd hc hn
  · next hc => exact absurd hc hs
  · exact finish_inv (atRest_setRspValue h _) _
  · split
    · exact beginAccess_inv h hv (by simp) (by simp) (by simp [Cont.namesAp]) trivial
    · exact finish_inv (atRest_setRspValue h _) _
  · exact finish_inv (atRest_setRspValue h _) _
  · exact finish_inv h _
  · exact finish_inv h _
  · exact beginAccess_inv h hv (by simp) (by simp) (by simp [Cont.namesAp]) trivial
  · have h' : AtRest (clearFault s) := ⟨h.hbufCanonical, h.absentNoCache, by simp [hv], h.fsmIdle, h.fsmMoves⟩
    exact finish_inv (atRest_setRspValue h' _) _
  · next u p hc => exact apResume_inv h hv _ _ _ _ (by rw [namesAp_ap u _ p, ← hc]; exact ha)
  · next rd p hc =>
    unfold windowFits at hw
    rw [hc] at hw
    obtain ⟨a, b, c, d, e, f⟩ := hw
    exact memResume_inv h hv (ha (by rw [hc]; rfl)) rd p v o ⟨a, b, c, d, f⟩ e

end Sys2Proof.Machine
end

