-- ==== Sys2Proof/Laws/Step.lean ====
section
/-! SUPPORT. One step: while a command runs it is one link operation or internal move; while none runs it is the host's
next act. -/

namespace Sys2Proof.Machine

/-- A link operation has one meaning, in `exec` and in the run of a command. -/
theorem exec_link (i : Instr) (s : State) (h : i.isCommand = false) : exec i s = execLink i s := by
  cases i
  all_goals first
    | rfl
    | exact absurd h (by decide)

/-- A word of a link format is a link operation. -/
theorem decode_link {f : Format} {w : BitVec 40} {i : Instr} (h : decode f w = .ok i) (hf : f ≠ .cmd) :
    i.isCommand = false := by
  have hrows : ∀ r ∈ fixedRows, r.fmt ≠ .cmd → r.instr.isCommand = false := by decide
  have hfix : ∀ g, g ≠ .cmd → decodeFixed g w = .ok i → i.isCommand = false := by
    intro g hg hd
    unfold decodeFixed at hd
    split at hd
    · next r hr =>
      injection hd with hd
      subst hd
      have hm := List.find?_some hr
      simp only [Bool.and_eq_true, decide_eq_true_iff] at hm
      exact hrows r (List.mem_of_find?_eq_some hr) (by rw [hm.1]; exact hg)
    · cases hd
  cases f with
  | swdReq => exact hfix _ hf h
  | ack => exact hfix _ hf h
  | swdData =>
    unfold decode decodeData at h
    dsimp only at h
    split at h
    · injection h with h
      subst h
      rfl
    · cases h
  | swdFlush => exact hfix _ hf h
  | jtagIr => exact hfix _ hf h
  | jtagDr ap =>
    unfold decode decodeScan at h
    dsimp only at h
    split at h
    · split at h
      · cases h
      · injection h with h
        subst h
        generalize w.getLsbD 0 = rnw
        generalize w.extractLsb' 3 32 = d
        rcases bits2_cases (w.extractLsb' 1 2) with ha | ha | ha | ha <;> rw [ha] <;> cases ap <;> cases rnw <;> rfl
    · cases h
  | lineReset => exact hfix _ hf h
  | cmd => exact absurd rfl hf

/-- While a command runs, a step is its next link operation or internal move. -/
theorem step_busy {s : State} (h : s.stage ≠ .idle) : step s = linkStep s := by
  unfold step linkStep
  rw [if_neg h]
  have hf : ∀ f w t, fetch s = .word f w t → f ≠ .cmd := by
    intro f w t hw
    cases hst : s.stage
    case idle => exact absurd hst h
    all_goals
      simp only [fetch, fetchClock, fetchRequest, fetchDrain, fetchAck, fetchData, hst] at hw
      repeat' split at hw
      all_goals cases hw
      all_goals exact fun hc => by cases hc
  cases hw : fetch s with
  | wait => rfl
  | moved t => rfl
  | word f w t =>
    cases hd : decode f w with
    | error e => simp only [hd]
    | ok i =>
      simp only [hd]
      exact exec_link i t (decode_link hd (hf f w t hw))

end Sys2Proof.Machine
end

