-- ==== Sys2Proof/Laws/Invariant.lean ====
section
/-! SUPPORT. One link operation or internal move keeps the invariant, phase by phase. -/

namespace Sys2Proof.Machine

/-- One more move along R141. -/
theorem fsmPath_cons {f : Fsm} {l : List Fsm} (h : fsmPath l = true) (he : fsmEdge (lastFsm l) f = true) :
    fsmPath (f :: l) = true := by
  cases l with
  | nil => exact he
  | cons g l => simp [fsmPath, lastFsm] at *; exact ⟨he, h⟩

/-- The AP table's part of the invariant, of a state with the same table. -/
theorem absentNoCache_of_eq {s t : State} (h : ∀ i, s.apPresent i = false → s.cswCache i = none ∧ s.tarCache i = none)
    (e : t.aps = s.aps) : ∀ i, t.apPresent i = false → t.cswCache i = none ∧ t.tarCache i = none := by
  have ha : ∀ k, t.ap k = s.ap k := by simp [State.ap, e]
  simpa only [State.apPresent, State.cswCache, State.tarCache, ha] using h

theorem apPresent_of_eq {s t : State} (e : t.aps = s.aps) (k : Byte) : t.apPresent k = s.apPresent k := by
  simp [State.apPresent, State.ap, e]

/-- The end of an access that did not raise (R130). -/
theorem returnAccess_inv {s t : State} (h : s.Inv) (e1 : t.hbuf = s.hbuf) (e2 : t.aps = s.aps) (hv : t.dp.valid = true)
    (hf : t.fsm = .idle) (hp : fsmPath t.fsmLog = true) (hl : lastFsm t.fsmLog = .idle) (e3 : t.cont = s.cont)
    (e4 : t.win = s.win) (e5 : t.port = s.port) (hn : s.cont ≠ .none) (hs : s.cont ≠ .scan) (v o) :
    (returnAccess v o t).Inv := by
  unfold returnAccess
  have hr : AtRest (forgetT0 t) :=
    ⟨e1 ▸ h.hbufCanonical, absentNoCache_of_eq h.absentNoCache e2, by simp [hv], by simpa using hf, by simp [hp, hf, hl]⟩
  refine resume_inv hr (by simpa using hv) v o (by simpa [e3] using hn) (by simpa [e3] using hs) ?_ ?_
  · have := h.commandHasAp
    rw [← e3, ← e5, ← apPresent_of_eq e2] at this
    exact this
  · have := h.window
    unfold windowFits at this ⊢
    simpa [e3, e4, e5] using this

/-- A raise (R268). -/
theorem raise_inv {s t : State} (h : s.Inv) (c : Condition) (e1 : t.hbuf = s.hbuf) (e2 : t.aps = s.aps)
    (e3 : t.dp = s.dp) (hp : fsmPath t.fsmLog = true) (he : fsmEdge (lastFsm t.fsmLog) c.fsm = true) :
    (raise c t).Inv := by
  have ha : ∀ k, (raise c t).ap k = (s.ap k).dropCaches := by simp [State.ap, e2]
  refine ⟨by simpa [e1] using h.hbufCanonical, fun k _ => by simp [State.cswCache, State.tarCache, ha,
    AccessPort.dropCaches], ?_, by simp [Cont.namesAp], by simp, ?_, ?_, ?_, ?_⟩
  · intro hv
    have := h.nothingWithoutDp (by simpa [e3] using hv)
    exact ⟨by simpa [e3] using this.1, by simp, fun k => by rw [State.apPresent, ha]; exact this.2.2 k⟩
  · simp [phaseFits]
  · simp [fsmAt]
  · simp [lastFsm]
    refine fsmPath_cons (fsmPath_cons hp he) ?_
    cases c <;> rfl
  · simp [windowFits]

/-- A failed scan (R242). -/
theorem scanFailed_inv {s : State} (h : s.Inv) (hc : s.cont = .scan) {t : State} (e1 : t.hbuf = s.hbuf) (e2 : t.aps =
    s.aps) (e3 : t.dp = s.dp) (e4 : t.fsm = s.fsm) (e5 : t.fsmLog = s.fsmLog) : (scanFailed t).Inv := by
  have hf := h.fsmFits
  rw [if_pos hc] at hf
  refine finish_inv ⟨e1 ▸ h.hbufCanonical, absentNoCache_of_eq h.absentNoCache e2, ?_, by rw [e4, hf],
    by rw [e4, e5]; exact h.fsmMoves⟩ _
  simpa only [e3, apPresent_of_eq e2] using h.nothingWithoutDp

/-- While a command runs it is some command. -/
theorem cont_ne_none {s : State} (h : s.Inv) (hs : s.stage ≠ .idle) : s.cont ≠ .none := by
  intro hc
  have := h.phase
  simp [phaseFits, hc] at this
  exact hs this

/-- The window's condition looks at three things. -/
theorem windowFits_of_eq {s t : State} (h : windowFits s) (e1 : t.cont = s.cont) (e2 : t.win = s.win) (e3 :
    t.port.argLen = s.port.argLen) : windowFits t := by
  unfold windowFits at *; rw [e1, e2, e3]; exact h

/-- The flush of `FLUSH_ON_NON_OK` changes the calls alone. -/
theorem flushNonOk_eq (s : State) : (flushNonOk s).fsm = s.fsm ∧ (flushNonOk s).fsmLog =
    s.fsmLog ∧ (flushNonOk s).hbuf = s.hbuf ∧ (flushNonOk s).aps = s.aps ∧ (flushNonOk s).dp =
    s.dp ∧ (flushNonOk s).cont = s.cont ∧ (flushNonOk s).win = s.win ∧ (flushNonOk s).port =
    s.port ∧ (flushNonOk s).clkIn = s.clkIn ∧ (flushNonOk s).stage = s.stage ∧ (flushNonOk s).acc = s.acc := by
  unfold flushNonOk; split <;> simp

/-- Taking an acknowledge changes the calls alone. -/
theorem receiveAck_eq (s : State) : (receiveAck s).fsm = s.fsm ∧ (receiveAck s).fsmLog =
    s.fsmLog ∧ (receiveAck s).hbuf = s.hbuf ∧ (receiveAck s).aps = s.aps ∧ (receiveAck s).dp =
    s.dp ∧ (receiveAck s).cont = s.cont ∧ (receiveAck s).win = s.win ∧ (receiveAck s).port =
    s.port ∧ (receiveAck s).clkIn = s.clkIn ∧ (receiveAck s).stage = s.stage ∧ (receiveAck s).acc =
    s.acc ∧ (receiveAck s).tapIn = s.tapIn := by
  unfold receiveAck; split <;> simp

/-- A move inside an access: phase and `fsm` are new, the rest of the invariant's fields are as they were. -/
theorem inv_of_eq {s t : State} (h : s.Inv) (e1 : t.hbuf = s.hbuf) (e2 : t.aps = s.aps) (e3 : t.dp = s.dp) (e4 :
    t.cont = s.cont)
   (e5 : t.win = s.win) (e6 : t.port = s.port) (hs : s.stage ≠ .idle)
   (hp : phaseFits t) (hf : if t.cont = .scan then t.fsm = .idle else fsmAt t.stage t.fsm)
   (hm : fsmPath t.fsmLog = true ∧ t.fsm = lastFsm t.fsmLog) : t.Inv := by
  refine ⟨e1 ▸ h.hbufCanonical, absentNoCache_of_eq h.absentNoCache e2, ?_, ?_, ?_, hp, hf, hm,
      windowFits_of_eq h.window e4 e5 (by rw [e6])⟩
  · simpa only [e3, apPresent_of_eq e2] using h.nothingWithoutDp
  · simpa only [e4, e6, apPresent_of_eq e2] using h.commandHasAp
  · intro _
    rw [e3, e4]
    exact h.commandHasDp hs

/-- A new phase of the same command, not a scan. -/
theorem phaseFits_of {s t : State} (h : phaseFits s) (hn : s.cont ≠ .none) (hc : s.cont ≠ .scan) (e : t.cont =
    s.cont) (h1 : t.stage ≠ .idle) (h2 : t.stage ≠ .lineReset)
  (h3 : t.stage = .ir ∨ t.stage = .reloadIr ∨ t.stage = .drain ∨ t.stage = .collectIr ∨ t.stage = .collect →
    t.dp.variant = .jtag) (h4 : t.stage = .data ∨ t.stage = .flush → t.dp.variant = .swd) :
      phaseFits t := by
  revert h
  unfold phaseFits
  rw [e]
  cases hk : s.cont <;> simp_all

/-- A phase of DP_SCAN. -/
theorem phaseFits_scan {t : State} (e : t.cont = .scan) (ha : t.acc.rnw = true) (h : t.stage = .lineReset ∨ t.stage =
    .request ∨ t.stage = .ack ∨ t.stage = .data ∨ t.stage = .flush) : phaseFits t := by
  unfold phaseFits; rw [e]; exact ⟨by rw [← ha], h⟩

/-- DP_SCAN's access is a read (R240). -/
theorem rnw_of_scan {s : State} (h : s.Inv) (e : s.cont = .scan) : s.acc.rnw = true := by
  have := h.phase; unfold phaseFits at this; rw [e] at this
  have := this.1
  rw [this]

/-- The begin of an access (R131). -/
theorem startAccess_inv {s : State} (h : s.Inv) (hst : s.stage = .start) : (startAccess s).Inv := by
  have hs : s.stage ≠ .idle := by simp [hst]
  have hn := cont_ne_none h hs
  have hc : s.cont ≠ .scan := by
    intro hc; have := h.phase; simp [phaseFits, hc, hst] at this
  have hv : s.dp.valid = true := (h.commandHasDp hs).2 hc
  have hf := h.fsmFits
  rw [if_neg hc] at hf; simp [fsmAt, hst] at hf
  have hl := h.fsmMoves
  by_cases hsk : isAp s.acc.addr = true ∧ s.dp.fault = true
  · rw [startAccess_skip hsk]
    refine returnAccess_inv (t := moveFsm .idle (moveFsm .faulted s)) h rfl rfl hv rfl ?_ rfl rfl rfl rfl hn hc _ _
    refine fsmPath_cons (fsmPath_cons hl.1 ?_) rfl
    rw [← hl.2, hf]; rfl
  · rw [startAccess_go hsk hc]
    refine inv_of_eq h rfl rfl rfl rfl rfl rfl hs (phaseFits_of h.phase hn hc rfl ?_ ?_ ?_ ?_) ?_ hl
    all_goals cases hvv : s.dp.variant <;> simp [hc, hf, fsmAt, hvv]

/-- One more move along R141, from the state `fsm` has. -/
theorem fsmPath_of_edge {s : State} (h : s.Inv) (_hc : s.cont ≠ .scan) {f} (he : fsmEdge s.fsm f = true) :
    fsmPath (f :: s.fsmLog) = true := by
  refine fsmPath_cons h.fsmMoves.1 ?_
  rw [← h.fsmMoves.2]; exact he

/-- A retry begins at the request, or over JTAG at the instruction register (R135, log 21). -/
theorem retryStage_cases (s : State) : retryStage s = .request ∨ retryStage s = .reloadIr ∧ s.wire = .jtag := by
  unfold retryStage
  split
  · next h => exact .inr ⟨rfl, h.2.1⟩
  · exact .inl rfl

/-- The clock reading after WAIT (R135, R136), from a state that is retrying the access of `s`. -/
theorem retry_inv {s t : State} (h : s.Inv) (hs : s.stage ≠ .idle) (hc : s.cont ≠ .scan) (e1 : t.hbuf = s.hbuf)
    (e2 : t.aps = s.aps) (e3 : t.dp = s.dp) (e4 : t.cont = s.cont) (e5 : t.win = s.win) (e6 : t.port = s.port)
    (hf : t.fsm = .retrying) (hp : fsmPath t.fsmLog = true) (hl : lastFsm t.fsmLog = .retrying) :
    (retryOrTimeout t).Inv := by
  have hn := cont_ne_none h hs
  unfold retryOrTimeout
  split
  · refine inv_of_eq h e1 e2 e3 e4 e5 e6 hs (phaseFits_of h.phase hn hc e4 (by simp) (by simp) (by simp) (by simp)) ?_
      ⟨hp, by simp [hf, hl]⟩
    simp [e4, hc, fsmAt, hf]
  · dsimp only
    split
    · have hw : t.wire = t.dp.variant := wire_of_not_scan (by rw [e4]; exact hc)
      rcases retryStage_cases ((logCall .nowMs t).setClkIn _) with hr | ⟨hr, hj⟩ <;> rw [hr]
      · refine inv_of_eq h e1 e2 e3 e4 e5 e6 hs (phaseFits_of h.phase hn hc e4 (by simp) (by simp) (by simp) (by simp))
          ?_ ⟨hp, by simp [hf, hl]⟩
        simp [e4, hc, fsmAt, hf]
      · have hv : t.dp.variant = .jtag := hw.symm.trans hj
        refine inv_of_eq h e1 e2 e3 e4 e5 e6 hs (phaseFits_of h.phase hn hc e4 (by simp) (by simp) (by simp [hv])
          (by simp)) ?_ ⟨hp, by simp [hf, hl]⟩
        simp [e4, hc, fsmAt, hf]
    · refine raise_inv h _ e1 e2 e3 hp ?_
      show fsmEdge (lastFsm t.fsmLog) _ = _
      rw [hl]
      rfl

/-- The reaction to any acknowledge (R134 to R138, R242, R243). -/
theorem react_inv {s : State} (h : s.Inv) (hst : s.stage = .ack) (b : BitVec 3) : (react b s).Inv := by
  have hs : s.stage ≠ .idle := by simp [hst]
  have hn := cont_ne_none h hs
  have hR := receiveAck_eq s
  by_cases hc : s.cont = .scan
  · have hsf : (scanFailed (receiveAck s)).Inv := scanFailed_inv h hc hR.2.2.1 hR.2.2.2.1 hR.2.2.2.2.1 hR.1 hR.2.1
    have hrc : (receiveAck s).cont = .scan := by rw [hR.2.2.2.2.2.1, hc]
    have h1 : (acceptWait s).Inv := by simp only [acceptWait]; rw [if_pos hrc]; exact hsf
    have h2 : (acceptFault s).Inv := by simp only [acceptFault]; rw [if_pos hrc]; exact hsf
    have h3 : (acceptInvalid s).Inv := by simp only [acceptInvalid]; rw [if_pos hrc]; exact hsf
    have h4 : (acceptOk s).Inv := by
      have : acceptOk s = (logCall (.seqIn 3) s).setStage .data := by
        have hw : s.wire = .swd := by simp [State.wire, hc]
        have : (logCall (.seqIn 3) s).wire = .swd := hw
        simp [acceptOk, receiveAck, hw, moveFsmInAccess, hc, this]
      rw [this]
      refine inv_of_eq h rfl rfl rfl rfl rfl rfl hs (phaseFits_scan (by simpa using hc)
          (by simpa using rnw_of_scan h hc) (by simp)) ?_ h.fsmMoves
      have := h.fsmFits
      simp [hc] at this ⊢; exact this
    rcases bits3_cases b with rfl | rfl | rfl | rfl | rfl | rfl | rfl | rfl <;> assumption
  · have hv : s.dp.valid = true := (h.commandHasDp hs).2 hc
    have hf := h.fsmFits
    rw [if_neg hc] at hf; simp [fsmAt, hst] at hf
    have hl := h.fsmMoves
    have hrc : (receiveAck s).cont ≠ .scan := by rw [hR.2.2.2.2.2.1]; exact hc
    have e1 : ∀ f, fsmEdge .requestSent f = true → fsmPath (f :: s.fsmLog) = true :=
        fun f hfe => fsmPath_of_edge h hc (by rw [hf]; exact hfe)
    have h4 : (acceptOk s).Inv := by
      cases hvv : s.dp.variant with
      | swd =>
        rw [acceptOk_swd hc hvv]
        refine inv_of_eq h rfl rfl rfl rfl rfl rfl hs (phaseFits_of h.phase hn hc rfl (by simp) (by simp)
            (by simp) (by simp [hvv])) ?_ ?_
        · simp [hc, fsmAt]
        · exact ⟨e1 _ rfl, rfl⟩
      | jtag =>
        rw [acceptOk_jtag hc hvv]
        exact returnAccess_inv (t := moveFsm .idle (moveFsm .dataPhase s)) h rfl rfl hv rfl (fsmPath_cons (e1 _ rfl) rfl)
          rfl rfl rfl rfl hn hc _ _
    have h3 : (acceptInvalid s).Inv := by
      simp only [acceptInvalid]; rw [if_neg hrc]
      have hF := flushNonOk_eq (receiveAck s)
      refine raise_inv h _ ?_ ?_ ?_ ?_ ?_
      · rw [hF.2.2.1, hR.2.2.1]
      · rw [hF.2.2.2.1, hR.2.2.2.1]
      · rw [hF.2.2.2.2.1, hR.2.2.2.2.1]
      · rw [hF.2.1, hR.2.1]; exact hl.1
      · rw [hF.2.1, hR.2.1, ← hl.2, hf]; rfl
    have h2 : (acceptFault s).Inv := by
      simp only [acceptFault]; rw [if_neg hrc]
      have hF := flushNonOk_eq (latchFault (moveFsm .faulted (receiveAck s)))
      obtain ⟨f1, f2, f3, f4, f5, f6, f7, f8, f9⟩ := hF
      obtain ⟨r1, r2, r3, r4, r5, r6, r7, r8, r9⟩ := hR
      refine returnAccess_inv h ?_ ?_ ?_ rfl ?_ rfl ?_ ?_ ?_ hn hc _ _
      · rw [moveFsm_hbuf, f3]; simp [r3]
      · rw [moveFsm_aps, f4]; simp [r4]
      · rw [moveFsm_dp, f5]; simpa [r5] using hv
      · rw [moveFsm_fsmLog, f2]; simp only [latchFault_fsmLog, moveFsm_fsmLog, r2]
        exact fsmPath_cons (e1 _ rfl) rfl
      · rw [moveFsm_cont, f6]; simp [r6]
      · rw [moveFsm_win, f7]; simp [r7]
      · rw [moveFsm_port, f8]; simp [r8]
    have h1 : (acceptWait s).Inv := by
      simp only [acceptWait]; rw [if_neg hrc]
      have hF := flushNonOk_eq (moveFsm .retrying (receiveAck s))
      obtain ⟨f1, f2, f3, f4, f5, f6, f7, f8, f9, f10, f11⟩ := hF
      obtain ⟨r1, r2, r3, r4, r5, r6, r7, r8, r9, r10, r11⟩ := hR
      refine retry_inv h hs hc ?_ ?_ ?_ ?_ ?_ ?_ ?_ ?_ ?_
      all_goals simp [f1, f2, f3, f4, f5, f6, f7, f8, r2, r3, r4, r5, r6, r7, r8, lastFsm]
      exact e1 _ rfl
    rcases bits3_cases b with rfl | rfl | rfl | rfl | rfl | rfl | rfl | rfl <;> assumption

/-- The flush (R95, R244). -/
theorem flushLine_inv {s : State} (h : s.Inv) (hst : s.stage = .flush) : (flushLine s).Inv := by
  have hs : s.stage ≠ .idle := by simp [hst]
  have hn := cont_ne_none h hs
  have hl := h.fsmMoves
  by_cases hc : s.cont = .scan
  · have : flushLine s = scanSucceeded (logCall (.seqOut (Config.flushValue.setWidth 32) Config.flushBits) s) := by
      simp [flushLine, hc]
    rw [this]
    have hf := h.fsmFits
    rw [if_pos hc] at hf
    unfold scanSucceeded
    refine finish_inv ?_ _
    exact ⟨h.hbufCanonical, h.absentNoCache, fun hv => (by cases hv), hf, hl⟩
  · rw [flushLine_eq hc]
    have hv : s.dp.valid = true := (h.commandHasDp hs).2 hc
    have hf := h.fsmFits
    rw [if_neg hc] at hf; simp [fsmAt, hst] at hf
    exact returnAccess_inv (t := moveFsm .idle (logCall (.seqOut 0 8) s)) h rfl rfl hv rfl
      (fsmPath_of_edge h hc (by rw [hf]; rfl)) rfl rfl rfl rfl hn hc _ _

/-- A received data phase (R132, R139, R242). -/
theorem receiveData_inv {s : State} (h : s.Inv) (hst : s.stage = .data) (hr : s.acc.rnw = true) (v p) :
    (receiveData v p s).Inv := by
  have hs : s.stage ≠ .idle := by simp [hst]
  have hn := cont_ne_none h hs
  have hl := h.fsmMoves
  have hf := h.fsmFits
  unfold receiveData
  dsimp only
  split
  · by_cases hc : s.cont = .scan
    · refine inv_of_eq h rfl rfl rfl rfl rfl rfl hs (phaseFits_scan (by simpa using hc) (by simpa using hr)
        (by simp)) ?_ hl
      simp [hc] at hf ⊢; exact hf
    · rw [if_neg hc] at hf; simp [fsmAt, hst] at hf
      refine inv_of_eq h rfl rfl rfl rfl rfl rfl hs (phaseFits_of h.phase hn hc rfl (by simp) (by simp)
          (by simp) ?_) ?_ hl
      · intro _
        have := h.phase
        unfold phaseFits at this
        simp [hst] at this
        cases hk : s.cont <;> simp_all
      · simp [hc, fsmAt, hf]
  · split
    · next hc => exact scanFailed_inv h hc rfl rfl rfl rfl rfl
    · next hc =>
      have hc' : s.cont ≠ .scan := hc
      rw [if_neg hc'] at hf; simp [fsmAt, hst] at hf
      refine raise_inv h _ rfl rfl rfl hl.1 ?_
      show fsmEdge (lastFsm s.fsmLog) _ = _
      rw [← hl.2, hf]; rfl

/-- A sent data phase (R132). -/
theorem transmitData_inv {s : State} (h : s.Inv) (hst : s.stage = .data) (hr : s.acc.rnw = false) (v) :
    (transmitData v s).Inv := by
  have hs : s.stage ≠ .idle := by simp [hst]
  have hn := cont_ne_none h hs
  have hl := h.fsmMoves
  have hf := h.fsmFits
  by_cases hc : s.cont = .scan
  · rw [rnw_of_scan h hc] at hr; cases hr
  · rw [if_neg hc] at hf; simp [fsmAt, hst] at hf
    refine inv_of_eq h rfl rfl rfl rfl rfl rfl hs (phaseFits_of h.phase hn hc rfl (by simp [transmitData]) (by simp [transmitData]) (by simp [transmitData])
        ?_) ?_ hl
    · intro _
      have := h.phase
      unfold phaseFits at this
      simp [hst] at this
      cases hk : s.cont <;> simp_all [transmitData]
    · simp [hc, fsmAt, hf, transmitData]

/-- The clock reading after WAIT (R135, R136). -/
theorem retryOrTimeout_inv {s : State} (h : s.Inv) (hst : s.stage = .retryClock) : (retryOrTimeout s).Inv := by
  have hs : s.stage ≠ .idle := by simp [hst]
  have hf := h.fsmFits
  have hc : s.cont ≠ .scan := by
    intro hc; have := h.phase; simp [phaseFits, hc, hst] at this
  rw [if_neg hc] at hf; simp [fsmAt, hst] at hf
  exact retry_inv h hs hc rfl rfl rfl rfl rfl rfl hf h.fsmMoves.1 (by rw [← h.fsmMoves.2, hf])

/-- An instruction register load, and what follows it (R133, log 21). -/
theorem loadIr_inv {s : State} (h : s.Inv) (hst : s.stage = .ir ∨ s.stage = .reloadIr ∨ s.stage = .collectIr)
    (c : BitVec 4) : (loadIr c s).Inv := by
  have hs : s.stage ≠ .idle := by rcases hst with hst | hst | hst <;> simp [hst]
  have hn := cont_ne_none h hs
  have hp := h.phase
  have hc : s.cont ≠ .scan := by
    intro hc
    rcases hst with hst | hst | hst <;> simp [phaseFits, hc, hst] at hp
  have hv : s.dp.variant = .jtag := by
    unfold phaseFits at hp
    rcases hst with hst | hst | hst <;> cases hk : s.cont <;> simp_all
  have hf := h.fsmFits
  rw [if_neg hc] at hf
  unfold loadIr
  rcases hst with hst | hst | hst <;> simp only [hst, fsmAt] at hf <;> rw [hst] <;>
    exact inv_of_eq h rfl rfl rfl rfl rfl rfl hs
      (phaseFits_of h.phase hn hc rfl (by simp [afterIr]) (by simp [afterIr]) (by simp [hv]) (by simp [afterIr]))
      (by simp [hc, fsmAt, afterIr, hf]) h.fsmMoves

/-- The request scan's bits are dropped (U11, log 21). -/
theorem dropResponse_inv {s : State} (h : s.Inv) (hst : s.stage = .drain) : (dropResponse s).Inv := by
  have hs : s.stage ≠ .idle := by simp [hst]
  have hn := cont_ne_none h hs
  have hp := h.phase
  have hc : s.cont ≠ .scan := by
    intro hc; simp [phaseFits, hc, hst] at hp
  have hv : s.dp.variant = .jtag := by
    unfold phaseFits at hp
    cases hk : s.cont <;> simp_all
  have hf := h.fsmFits
  rw [if_neg hc] at hf; simp only [hst, fsmAt] at hf
  unfold dropResponse
  split
  · exact h
  · split <;>
      exact inv_of_eq h rfl rfl rfl rfl rfl rfl hs
        (phaseFits_of h.phase hn hc rfl (by simp) (by simp) (by simp [hv]) (by simp))
        (by simp [hc, fsmAt, hf]) h.fsmMoves

/-- Taking an answer. -/
theorem setTapIn_inv {s : State} (h : s.Inv) (rest) : (s.setTapIn rest).Inv := ⟨h.1, h.2, h.3, h.4, h.5, h.6, h.7,
    h.8, h.9⟩

/-- Keeping what a scan shifted out. -/
theorem setAccValue_inv {s : State} (h : s.Inv) (v) : (s.setAcc { s.acc with value := v }).Inv := by
  refine ⟨h.1, h.2, h.3, h.4, h.5, ?_, h.7, h.8, h.9⟩
  have hp := h.phase
  by_cases hc : s.cont = .scan
  · refine phaseFits_scan hc (by simpa using rnw_of_scan h hc) ?_
    unfold phaseFits at hp; rw [hc] at hp; exact hp.2
  · unfold phaseFits at hp ⊢
    cases hk : s.cont <;> simp_all

/-- One link operation or internal move keeps the invariant. -/
theorem linkStep_inv {s t : State} (h : s.Inv) (ht : linkStep s = .next t) : t.Inv := by
  cases hst : s.stage with
  | idle => rw [linkStep_idle hst] at ht; cases ht; exact h
  | start => rw [linkStep_start hst] at ht; cases ht; exact startAccess_inv h hst
  | ir => rw [linkStep_ir hst] at ht; cases ht; exact loadIr_inv h (by simp [hst]) _
  | reloadIr => rw [linkStep_reloadIr hst] at ht; cases ht; exact loadIr_inv h (by simp [hst]) _
  | collectIr => rw [linkStep_collectIr hst] at ht; cases ht; exact loadIr_inv h (by simp [hst]) _
  | drain =>
    cases hk : s.tapIn with
    | nil => simp [linkStep, hst, fetch, fetchDrain, hk] at ht; subst ht; exact h
    | cons r rest => rw [linkStep_drain hst hk] at ht; cases ht; exact dropResponse_inv h hst
  | collect =>
    rw [linkStep_collect hst, shiftScan_collect hst] at ht; cases ht
    have hs : s.stage ≠ .idle := by simp [hst]
    have hn := cont_ne_none h hs
    have hc : s.cont ≠ .scan := by
      intro hc; have := h.phase; simp [phaseFits, hc, hst] at this
    have hf := h.fsmFits
    rw [if_neg hc] at hf; simp only [hst, fsmAt] at hf
    refine inv_of_eq h rfl rfl rfl rfl rfl rfl hs (phaseFits_of h.phase hn hc rfl (by simp) (by simp) (by simp)
      (by simp)) ?_ h.fsmMoves
    simp [hc, fsmAt, hf]
  | clock =>
    have hs : s.stage ≠ .idle := by simp [hst]
    have hn := cont_ne_none h hs
    have hc : s.cont ≠ .scan := by
      intro hc; have := h.phase; simp [phaseFits, hc, hst] at this
    have hf := h.fsmFits
    rw [if_neg hc] at hf; simp [fsmAt, hst] at hf
    cases hk : s.clkIn with
    | nil => simp [linkStep, hst, fetch, fetchClock, hk] at ht; subst ht; exact h
    | cons now rest =>
      rw [linkStep_clock hst hk, sampleT0_eq hk] at ht; cases ht
      refine inv_of_eq h rfl rfl rfl rfl rfl rfl hs (phaseFits_of h.phase hn hc rfl (by simp) (by simp)
          (by simp) (by simp)) ?_ h.fsmMoves
      simp [hc, fsmAt, hf]
  | request =>
    have hs : s.stage ≠ .idle := by simp [hst]
    have hn := cont_ne_none h hs
    have hf := h.fsmFits
    cases hw : s.wire with
    | swd =>
      rw [linkStep_request_swd hst hw] at ht; cases ht
      by_cases hc : s.cont = .scan
      · have : sendRequest s.acc.request s = (logCall (.seqOut (s.acc.request.setWidth 32) 8) s).setStage .ack := by
          simp [sendRequest, moveFsmInAccess, hc]
        rw [this]
        refine inv_of_eq h rfl rfl rfl rfl rfl rfl hs (phaseFits_scan (by simpa using hc)
            (by simpa using rnw_of_scan h hc) (by simp)) ?_ h.fsmMoves
        simp [hc] at hf ⊢; exact hf
      · rw [sendRequest_eq hc]
        rw [if_neg hc] at hf; simp [fsmAt, hst] at hf
        refine inv_of_eq h rfl rfl rfl rfl rfl rfl hs (phaseFits_of h.phase hn hc rfl (by simp) (by simp)
            (by simp) (by simp)) ?_ ⟨fsmPath_of_edge h hc ?_, rfl⟩
        · simp [hc, fsmAt]
        · rcases hf with hf | hf <;> rw [hf] <;> rfl
    | jtag =>
      have hc : s.cont ≠ .scan := by
        intro hc; simp [State.wire, hc] at hw
      have hv : s.dp.variant = .jtag := (wire_of_not_scan hc).symm.trans hw
      rw [linkStep_request_jtag hst hw, shiftScan_request hst] at ht; cases ht
      rw [if_neg hc] at hf; simp [fsmAt, hst] at hf
      split
      all_goals
        refine inv_of_eq h rfl rfl rfl rfl rfl rfl hs (phaseFits_of h.phase hn hc rfl (by simp) (by simp)
          (by simp [hv]) (by simp)) ?_ ⟨fsmPath_of_edge h hc ?_, rfl⟩
        · simp [hc, fsmAt]
        · rcases hf with hf | hf <;> rw [hf] <;> rfl
  | ack =>
    cases hk : s.tapIn with
    | nil => simp [linkStep, hst, fetch, fetchAck, hk] at ht; subst ht; exact h
    | cons r rest =>
      cases hw : s.wire with
      | swd =>
        rw [linkStep_ack_swd hst hw hk] at ht; cases ht
        exact react_inv (setTapIn_inv h rest) hst _
      | jtag =>
        rw [linkStep_ack_jtag hst hw hk] at ht; cases ht
        exact react_inv (setAccValue_inv (setTapIn_inv h rest) _) hst _
  | retryClock =>
    cases hk : s.clkIn with
    | nil => simp [linkStep, hst, fetch, fetchClock, hk] at ht; subst ht; exact h
    | cons now rest => rw [linkStep_retryClock hst hk] at ht; cases ht; exact retryOrTimeout_inv h hst
  | data =>
    cases hr : s.acc.rnw with
    | true =>
      cases hk : s.tapIn with
      | nil => simp [linkStep, hst, fetch, fetchData, hk, hr] at ht; subst ht; exact h
      | cons r rest =>
        rw [linkStep_data_read hst hr hk] at ht
        cases ht
        exact receiveData_inv (setTapIn_inv h rest) hst hr _ _
    | false =>
      rw [linkStep_data_write hst hr] at ht
      cases ht
      exact transmitData_inv h hst hr _
  | flush => rw [linkStep_flush hst] at ht; cases ht; exact flushLine_inv h hst
  | lineReset =>
    rw [linkStep_lineReset hst] at ht; cases ht
    have hs : s.stage ≠ .idle := by simp [hst]
    have hn := cont_ne_none h hs
    have hc : s.cont = .scan := by
      have := h.phase
      unfold phaseFits at this
      cases hk : s.cont <;> simp_all
    have hf := h.fsmFits
    refine inv_of_eq h rfl rfl rfl rfl rfl rfl hs (phaseFits_scan (by simpa [lineResetSwitch] using hc) (by simpa [lineResetSwitch] using rnw_of_scan h hc)
        (by simp [lineResetSwitch])) ?_ h.fsmMoves
    simp [hc, lineResetSwitch] at hf ⊢; exact hf

end Sys2Proof.Machine
end

