-- ==== Sys2Proof/Tests/Slice0.lean ====
section
/-! SUPPORT. The tests: the checks of WellFormed, one written-out word for every row of the opcode table, vectors of
95_test_vectors.md (V..., E...), and a state and operands that meet the hypotheses of each statement. -/

namespace Sys2Proof.Tests
open Sys2Proof Sys2Proof.Machine
set_option maxRecDepth 20000

/-! ### WellFormed -/

/-- The one check: a JTAG read scan with data is ill-formed, in each of the eight rows (R98, R144). -/
theorem test_wellFormed_refuses_read_data :
    (scanTable 1).map (fun r => r.2.2.wellFormed)
      = [true, false, true, false, true, false, true, false, true, false, true, false, true, false, true, false] := by
  decide

theorem test_wellFormed_accepts_read_zero :
    (scanTable 0).all (fun r => r.2.2.wellFormed) = true := by decide

theorem test_decode_refuses_read_data :
    decodeBytes (.jtagDr false) [0x0B, 0, 0, 0, 0] = .error .readDataNotZero := by decide

/-! ### Decoding: the words as 30_encoding.md writes them -/

/-- E1: the sixteen request bytes, bit by bit from bit 7 down. -/
theorem test_decode_requests :
    [0b10000001, 0b10100101, 0b10101001, 0b10001101, 0b10110001, 0b10010101, 0b10011001, 0b10111101,
     0b10100011, 0b10000111, 0b10001011, 0b10101111, 0b10010011, 0b10110111, 0b10111011, 0b10011111].map
      (fun b => decodeBytes .swdReq [b])
    = [.ok .swdDpWr0, .ok .swdDpRd0, .ok .swdDpWr4, .ok .swdDpRd4, .ok .swdDpWr8, .ok .swdDpRd8, .ok .swdDpWrC,
       .ok .swdDpRdC, .ok .swdApWr0, .ok .swdApRd0, .ok .swdApWr4, .ok .swdApRd4, .ok .swdApWr8, .ok .swdApRd8,
       .ok .swdApWrC, .ok .swdApRdC] := by decide

/-- A request with the parity bit flipped is none of the sixteen (R92, R108 c). -/
theorem test_decode_refuses_bad_parity : decodeBytes .swdReq [0x85] = .error .unknownRequest := by decide

/-- R93: the eight patterns. -/
theorem test_decode_acks :
    [0b001, 0b010, 0b100, 0b000, 0b011, 0b101, 0b110, 0b111].map (fun b => decodeBytes .ack [b])
    = [.ok .ackOk, .ok .ackWait, .ok .ackFault, .ok .ackInvalid0, .ok .ackInvalid3, .ok .ackInvalid5, .ok .ackInvalid6,
       .ok .ackInvalid7] := by decide

/-- E2: DR words under DPACC, in bytes, least significant first. -/
theorem test_decode_dp_scans :
    decodeBytes (.jtagDr false) [0x08, 0, 0, 0, 0] = .ok (.jtagDpWr0 1) ∧
    decodeBytes (.jtagDr false) [0x01, 0, 0, 0, 0] = .ok (.jtagDpRd0 0) ∧
    decodeBytes (.jtagDr false) [0x02, 0, 0, 0, 4] = .ok (.jtagDpWr4 0x80000000) ∧
    decodeBytes (.jtagDr false) [0x03, 0, 0, 0, 0] = .ok (.jtagDpRd4 0) ∧
    decodeBytes (.jtagDr false) [0x84, 0x07, 0, 0x08, 0] = .ok (.jtagDpWr8 0x010000F0) ∧
    decodeBytes (.jtagDr false) [0x05, 0, 0, 0, 0] = .ok (.jtagDpRd8 0) ∧
    decodeBytes (.jtagDr false) [0xFE, 0xFF, 0xFF, 0xFF, 0x07] = .ok (.jtagDpWrC 0xFFFFFFFF) ∧
    decodeBytes (.jtagDr false) [0x07, 0, 0, 0, 0] = .ok (.jtagDpRdC 0) := by decide

/-- E2: DR words under APACC. -/
theorem test_decode_ap_scans :
    decodeBytes (.jtagDr true) [0x90, 0, 0, 0, 0] = .ok (.jtagApWr0 0x12) ∧
    decodeBytes (.jtagDr true) [0x01, 0, 0, 0, 0] = .ok (.jtagApRd0 0) ∧
    decodeBytes (.jtagDr true) [0xC2, 0xB3, 0xA2, 0x91, 0x00] = .ok (.jtagApWr4 0x12345678) ∧
    decodeBytes (.jtagDr true) [0x03, 0, 0, 0, 0] = .ok (.jtagApRd4 0) ∧
    decodeBytes (.jtagDr true) [0x0C, 0, 0, 0, 0] = .ok (.jtagApWr8 1) ∧
    decodeBytes (.jtagDr true) [0x05, 0, 0, 0, 0] = .ok (.jtagApRd8 0) ∧
    decodeBytes (.jtagDr true) [0x06, 0x00, 0x50, 0xAD, 0x02] = .ok (.jtagApWrC 0x55AA0000) ∧
    decodeBytes (.jtagDr true) [0x07, 0, 0, 0, 0] = .ok (.jtagApRdC 0) := by decide

/-- R94, R95, R97, R105: the other link words. -/
theorem test_decode_link_words :
    decodeBytes .swdData [0x40, 0x00, 0x00, 0xF0, 0x01] = .ok (.swdData 0xF0000040 true) ∧
    decodeBytes .swdData [0x01, 0x00, 0x00, 0x80, 0x00] = .ok (.swdData 0x80000001 false) ∧
    decodeBytes .swdFlush [0x00] = .ok .swdFlush ∧
    decodeBytes .lineReset [0x9E, 0xE7] = .ok .swdJtag2Swd ∧
    decodeBytes .jtagIr [0b1010] = .ok .jtagIrDpacc ∧
    decodeBytes .jtagIr [0b1011] = .ok .jtagIrApacc := by decide

/-- R107: the fifteen opcodes; E6: opcodes that are none. -/
theorem test_decode_commands :
    opcodes.map (fun b => decodeBytes .cmd [b])
    = [.ok .dpScan, .ok .dpAttachJtag, .ok .detach, .ok .lowAccessRd, .ok .lowAccessWr, .ok .dpRead, .ok .dpWrite,
       .ok .dpError, .ok .dpAbort, .ok .apScan, .ok .apRead, .ok .apWrite, .ok .memRead, .ok .memWrite,
       .ok .cacheInvalidate] ∧
    [0x00, 0x04, 0x16, 0x25, 0x2E, 0xFF].all (fun b => decodeBytes .cmd [b] = .error .undefinedOpcode) := by decide

/-- The numbering of the opcode table: bit 0 is the first word's least significant bit (log 15). -/
theorem test_decodeTableWord :
    decodeTableWord 8 0x9F = some .swdApRdC ∧ decodeTableWord 8 0x23 = some .memRead ∧
    decodeTableWord 3 0b100 = some .ackFault ∧ decodeTableWord 4 0b1011 = some .jtagIrApacc ∧
    decodeTableWord 16 0xE79E = some .swdJtag2Swd ∧ decodeTableWord 8 0xFF = none := by decide

/-! ### Small states -/

/-- AP 0 alone, with this CSW cache. -/
def oneAp (csw : Option Word) : Vector AccessPort Config.apselCount :=
  ApTable.change 0 (fun _ => ⟨true, 0x24770011, csw, none⟩) State.reset.aps

/-- A live SWD session with one AP. -/
def swd : State :=
  { State.reset with dp := ⟨true, 0x2BA01477, false, some (1, 0xF), .swd⟩, aps := oneAp none }

/-- The same over JTAG. -/
def jtag : State := { swd with dp := { swd.dp with variant := .jtag } }

/-- Over JTAG, with `JTAG_POSTED`. -/
def posted : State := { jtag with cfg := { Config.standard with jtagPosted := true } }

/-- With the operands ARG_ADDR and ARG_VALUE. -/
def withArgs (a v : Word) (s : State) : State := { s with port := { s.port with argAddr := a, argValue := v } }

/-- With answers of the transport and the clock. -/
def answered (tap : List TapReply) (clk : List Word) (s : State) : State := { s with tapIn := tap, clkIn := clk }

/-- With the fault latched. -/
def faulted (s : State) : State := { s with dp := { s.dp with fault := true } }

/-- An acknowledge. -/
def ack (b : BitVec 3) : TapReply := ⟨b.setWidth 35, true⟩

/-- A data word with good parity. -/
def word (w : Word) : TapReply := ⟨w.setWidth 35, true⟩

/-- A data word with bad parity. -/
def badWord (w : Word) : TapReply := ⟨w.setWidth 35, false⟩

/-- What a JTAG scan shifts out. -/
def scan (i : BitVec 35) : TapReply := ⟨i, true⟩

/-- At a phase of a command. -/
def atPhase (g : Stage) (k : Cont) (s : State) : State := { s with stage := g, cont := k }

/-- One thing about the next state. -/
def seen {α : Type} (f : State → α) : Host.Outcome State Fault Refusal → Option α
  | .next t => some (f t)
  | .fault _ => none
  | .refused _ => none

/-- Calls in order, status, value. -/
def summary (s : State) : List TapCall × BitVec 3 × Word := (s.trace.reverse, s.port.rspStatus, s.port.rspValue)

/-! ### Composed values -/

/-- E3: CSW for byte, halfword, word; with `CSW_BASE` all ones. -/
theorem test_csw_values :
    [0, 1, 2].map (cswValue Config.standard 0) = [0x10, 0x11, 0x12] ∧
    [0, 1, 2].map (cswValue { Config.standard with cswBase := [(7, 0xFFFFFFFF)] } 7)
      = [0xFFFFFFD8, 0xFFFFFFD9, 0xFFFFFFDA] := by decide

/-- E4: mask and ABORT value. -/
theorem test_clear_bits :
    [0xF0000000, 0xF0000021, 0x00000082, 0xF00000B2].map (fun cs => (stickyBits cs, clearBits (stickyBits cs)))
      = [(0, 0), (0x20, 4), (0x82, 0x18), (0xB2, 0x1E)] := by decide

/-- E5: the access size. -/
theorem test_access_size :
    accessSize 0x20000000 16 = 2 ∧ accessSize 0x20000000 2 = 1 ∧ accessSize 0x20000002 6 = 1 ∧
    accessSize 0x20000000 3 = 0 ∧ accessSize 0x20000001 4 = 0 := by decide

/-- R7, R97, R98, R105, R163: the named constants the rules also derive: the IDCODE request from R90, the widths of the
formats, the sticky mask from its four bits, the size of a register. -/
theorem test_constants :
    requestByte false true 0 = Config.idcodeReq ∧ Config.idcodeReq = 0xA5 ∧
    (Access.mk true Config.dpIdcode 0 0).request = Config.idcodeReq ∧
    Format.swdFlush.bits = Config.flushBits ∧ Format.jtagIr.bits = Config.jtagIrBits ∧
    (Format.jtagDr true).bits = Config.jtagDrBits ∧ Config.jtagDrBits = 35 ∧ Config.stickyMask = 0xB2 ∧
    Config.clockBits = 32 ∧ (Config.ackOk, Config.ackWait, Config.ackFault) = (0b001, 0b010, 0b100) := by decide

/-- R240, R313: 50 ones at least, whatever the configuration. -/
theorem test_line_reset_minimum :
    Config.standard.lineResetHighCycles = 50 ∧ { Config.standard with lineResetExtraCycles := 6 }.lineResetHighCycles = 56 := by
  decide

/-! ### Vectors, one step each -/

/-- Fifty ones. -/
def ones : List TapCall := List.replicate 50 (.bitOut true)

/-- The calls of V1. -/
def callsV1 : List TapCall :=
  TapCall.init :: (ones ++ TapCall.seqOut 0xE79E 16 :: (ones ++
    [.seqOut 0 16, .seqOut 0xA5 8, .seqIn 3, .seqInPar 32, .seqOut 0 8]))

/-- V1. -/
theorem test_V1_dpScan :
    seen summary (exec .dpScan (answered [ack 1, word 0x2BA01477] [] State.reset)) = some (callsV1, 0, 0x2BA01477) := by
  decide

/-- V3: bad parity. -/
theorem test_V3_dpScan_bad_parity :
    seen (fun t => (t.trace.head?, t.port.rspStatus, t.dp.valid))
      (exec .dpScan (answered [ack 1, badWord 0x2BA01477] [] swd)) = some (some (.seqInPar 32), 4, false) := by decide

/-- V4. -/
theorem test_V4_lowAccessRd :
    seen summary (exec .lowAccessRd (answered [ack 1, word 0xF0000040] [0] (withArgs 4 0 swd)))
      = some ([.nowMs, .seqOut 0x8D 8, .seqIn 3, .seqInPar 32, .seqOut 0 8], 0, 0xF0000040) := by decide

/-- V5: two WAITs. -/
theorem test_V5_retry :
    seen (fun t => t.fsmLog.reverse)
      (exec .lowAccessRd (answered [ack 2, ack 2, ack 1, word 0xF0000000] [100, 101, 102] (withArgs 4 0 swd)))
      = some [.requestSent, .retrying, .requestSent, .retrying, .requestSent, .dataPhase, .idle] := by decide

/-- V6: Timeout at the bound, through ACK.WAIT alone. -/
theorem test_V6_timeout :
    seen (fun t => (t.port.rspStatus, t.dp.selCache, t.trace))
      (exec .ackWait { answered [] [2100] (atPhase .ack .lowAccess swd) with t0 := 100 })
      = some (1, none, [.nowMs, .seqIn 3]) := by decide

/-- V6: one millisecond earlier it retries. -/
theorem test_V6_retries_below :
    seen (fun t => t.stage) (exec .ackWait { answered [] [2099] (atPhase .ack .lowAccess swd) with t0 := 100 })
      = some .request := by decide

/-- V7: the clock wraps; a raw write of SELECT drops the cache. -/
theorem test_V7_clock_wrap :
    seen (fun t => (t.trace.length, t.port.rspStatus, t.port.rspValue, t.dp.selCache))
      (exec .lowAccessWr (answered [ack 2, ack 1] [0xFFFFFF00, 256] (withArgs 8 0xF0 swd)))
      = some (8, 0, 0, none) := by decide

/-- V8a: a FAULT latches. -/
theorem test_V8a_fault :
    seen (fun t => (t.trace.reverse, t.rspFault, t.fsmLog))
      (exec .lowAccessRd (answered [ack 4] [0] (withArgs 0x10C 0 swd)))
      = some ([.nowMs, .seqOut 0x9F 8, .seqIn 3], true, [.idle, .faulted, .requestSent]) := by decide

/-- V8b: then no call. -/
theorem test_V8b_skipped :
    seen summary (exec .lowAccessRd (faulted (withArgs 0x10C 0 swd))) = some ([], 0, 0) := by decide

/-- V9. -/
theorem test_V9_invalid_ack :
    [Instr.ackInvalid0, .ackInvalid3, .ackInvalid5, .ackInvalid6, .ackInvalid7].map
      (fun i => seen (fun t => (t.port.rspStatus, t.dp.selCache)) (exec i (atPhase .ack .lowAccess swd)))
      = List.replicate 5 (some (2, none)) := by decide

/-- V10: bad parity, no flush. -/
theorem test_V10_parity :
    seen (fun t => (t.trace.head?, t.port.rspStatus))
      (exec .dpRead (answered [ack 1, badWord 0] [0] (withArgs 4 0 swd))) = some (some (.seqInPar 32), 2) := by decide

/-- V12 a. -/
theorem test_V12a_jtag_write :
    seen summary (exec .lowAccessWr (answered [scan 1] [0] (withArgs 8 0x010000F0 jtag)))
      = some ([.jtagIr 0xA, .nowMs, .jtagDr 0x008000784], 0, 0) := by decide

/-- V12 e. -/
theorem test_V12e_jtag_pipelined :
    seen summary (exec .dpRead (answered [scan 1, scan 0x123B80089] [0, 0] (withArgs 0x1FC 0 jtag)))
      = some ([.jtagIr 0xB, .nowMs, .jtagDr 7, .jtagIr 0xA, .nowMs, .jtagDr 7], 0, 0x24770011) := by decide

/-- `JTAG_POSTED`, an AP register: one WAIT, then OK; the first scan of each attempt is dropped, RDBUFF collects, APACC is
loaded again (log 21). -/
theorem test_posted_read :
    seen summary (exec .lowAccessRd (answered [scan 0x7, scan 2, scan 0x7, scan 0x123B80089] [0, 1] (withArgs 0x1FC 0 posted)))
      = some ([.jtagIr 0xB, .nowMs, .jtagDr 7, .jtagIr 0xA, .jtagDr 7, .nowMs, .jtagIr 0xB, .jtagDr 7, .jtagIr 0xA,
          .jtagDr 7], 0, 0x24770011) := by decide

/-- `JTAG_POSTED`, a DP register: no instruction register load between the two scans (log 21). -/
theorem test_posted_write :
    seen summary (exec .lowAccessWr (answered [scan 0x7, scan 1] [0] (withArgs 8 0x010000F0 posted)))
      = some ([.jtagIr 0xA, .nowMs, .jtagDr 0x008000784, .jtagDr 7], 0, 0) := by decide

/-- V13. -/
theorem test_V13_pipelined :
    seen (fun t => t.port.rspValue)
      (exec .dpRead (answered [ack 1, word 0xDEADBEEF, ack 1, word 0x12345678] [0, 0] (withArgs 0x10C 0 swd)))
      = some 0x12345678 := by decide

/-- V15. -/
theorem test_V15_dpWrite :
    seen (fun t => (t.trace.reverse, t.dp.selCache))
      (exec .dpWrite (answered [ack 1] [0] (withArgs 8 0x01000000 swd)))
      = some ([.nowMs, .seqOut 0xB1 8, .seqIn 3, .seqOutPar 0x01000000 32, .seqOut 0 8], none) := by decide

/-- V16 e: CTRL/STAT answered FAULT. -/
theorem test_V16e_dpError :
    seen (fun t => (t.port.rspValue, t.dp.fault, t.trace.take 2))
      (exec .dpError (answered [ack 4, ack 1] [0, 0] swd)) = some (0, false, [.seqOut 0 8, .seqOutPar 0 32]) := by decide

/-- V17: DAPABORT does not clear the latch. -/
theorem test_V17_dpAbort :
    seen (fun t => (t.dp.fault, t.dp.selCache, t.trace.tail.head?))
      (exec .dpAbort (answered [ack 1] [0] (faulted (withArgs 0 1 swd))))
      = some (true, some (1, 0xF), some (.seqOutPar 1 32)) := by decide

/-- V18 a. -/
theorem test_V18a_apRead :
    seen (fun t => (t.port.rspValue, t.dp.selCache, t.trace.reverse.filter (fun c => match c with
        | .seqOut _ 8 => true | _ => false)))
      (exec .apRead (answered [ack 1, ack 1, word 0, ack 1, word 0x24770011] [0, 0, 0] (withArgs 0xFC 0 swd)))
      = some (0x24770011, some (0, 0xF),
          [.seqOut 0xB1 8, .seqOut 0 8, .seqOut 0x9F 8, .seqOut 0 8, .seqOut 0xBD 8, .seqOut 0 8]) := by decide

/-- V19 a, on AP 0. -/
theorem test_V19a_apWrite :
    seen (fun t => t.tarCache 0)
      (exec .apWrite (answered [ack 1] [0]
        { withArgs 4 0x20000000 swd with dp := { swd.dp with selCache := some (0, 0) } }))
      = some (some 0x20000000) := by decide

/-- V19 f: the TAR write answered FAULT. -/
theorem test_V19f_apWrite_fault :
    seen (fun t => (t.dp.fault, t.dp.selCache, t.tarCache 0))
      (exec .apWrite (answered [ack 1, ack 4] [0, 0] (withArgs 4 0x20000000 swd)))
      = some (true, some (0, 0), none) := by decide

/-- A session in bank 0 of AP 0 with CSW known, and a buffer. -/
def mem (a len : Word) : State :=
  { withArgs a 0 swd with
    dp := { swd.dp with selCache := some (0, 0) }
    aps := oneAp (some 0x12)
    port := { swd.port with argAddr := a, argLen := len }
    hbuf := Memory.writeBytes [] 0 [0xA1, 0xA2, 0xA3, 0xA4] }

/-- V26 b, first unit: the halfword of the upper lane. -/
theorem test_V26b_memRead_lane :
    seen (fun t => (t.cswCache 0, t.port.rspCount, t.hbufByte 0, t.hbufByte 1))
      (exec .memRead (answered [ack 1, ack 1, ack 1, word 0, ack 1, word 0x13120000] [0, 0, 0, 0] (mem 0x20000002 2)))
      = some (some 0x11, 2, 0x12, 0x13) := by decide

/-- V29: two chunks across the top of the address space. -/
theorem test_V29_memRead_wrap :
    seen (fun t => (t.port.rspStatus, t.port.rspCount, t.tarCache 0, t.tapIn.length))
      (exec .memRead (answered
        [ack 1, ack 1, word 0, ack 1, word 5, ack 1, ack 1, word 0, ack 1, word 6] [0, 0, 0, 0, 0, 0] (mem 0xFFFFFFFC 8)))
      = some (0, 8, some 4, 0) := by decide

/-- R206, U18: with `TAR_WRAP_BITS` 3 a halfword read at 6 and 8 is two chunks, each primed and closed, TAR written twice. -/
theorem test_small_block_memRead :
    seen (fun t => (t.port.rspStatus, t.port.rspCount, t.tarCache 0, t.tapIn.length))
      (exec .memRead (answered
        [ack 1, ack 1, ack 1, word 0, ack 1, word 5, ack 1, ack 1, word 0, ack 1, word 6] (List.replicate 7 0)
        { mem 0x20000006 4 with cfg := { Config.standard with tarWrapExtraBits := 1 } }))
      = some (0, 4, some 0x2000000A, 0) := by decide

/-- V23 b, first unit: the halfword goes out in the upper lane, zeros below. -/
theorem test_V23b_memWrite_lane :
    seen (fun t => (t.trace.tail.head?, t.tarCache 0))
      (exec .memWrite (answered [ack 1, ack 1, ack 1] [0, 0, 0] (mem 0x20000002 2)))
      = some (some (.seqOutPar 0xA2A10000 32), some 0x20000004) := by decide

/-- V24 c: FAULT on the CSW write. -/
theorem test_V24c_memRead_fault :
    seen (fun t => (t.port.rspStatus, t.port.rspCount, t.dp.fault, t.trace.tail.head?))
      (exec .memRead (answered [ack 4, ack 1] [0, 0] { mem 0x20000000 4 with aps := swd.aps }))
      = some (3, 0, true, some (.seqOutPar 1 32)) := by decide

/-- V30 a with one AP: its record and the count. -/
theorem test_V30a_apScan :
    seen (fun t => (t.port.rspCount, (List.range 5).map t.hbufByte, [0, 1].map t.apPresent, t.dp.selCache))
      (exec .apScan (answered
        [ack 1, ack 1, word 0, ack 1, word 0x24770011, ack 1, ack 1, word 0, ack 1, word 0] [0, 0, 0, 0, 0, 0] swd))
      = some (1, [0x00, 0x11, 0x00, 0x77, 0x24], [true, false], some (1, 0xF)) := by decide

/-- V32. -/
theorem test_V32_noDp :
    commandsNeedingDp.map (fun i => seen (fun t => (t.port.rspStatus, t.trace)) (exec i State.reset))
      = List.replicate 11 (some (4, [])) := by decide

/-- V33. -/
theorem test_V33_wire_silent :
    seen (fun t => (t.dp.selCache, t.dp.fault, t.trace)) (exec .cacheInvalidate (faulted swd)) = some (none, true, []) ∧
    seen (fun t => (t.dp.valid, t.dp.fault, t.apPresent 0)) (exec .detach (faulted swd)) = some (false, false, false) ∧
    seen (fun t => (t.dp.valid, t.dp.idcode, t.dp.variant))
      (exec .dpAttachJtag (withArgs 0 0x4BA00477 State.reset)) = some (true, 0x4BA00477, .jtag) := by decide

/-! ### The fetch of the host's question (log 25) -/

theorem test_withFetchWord :
    seen (fun t => t.trace) (step (State.reset.withFetchWord 8 0x9F)) = some [.seqOut 0x9F 8] ∧
    seen (fun t => t.port.rspStatus) (step (State.reset.withFetchWord 8 0x23)) = some 4 ∧
    seen (fun t => t.dp.fault) (step (State.reset.withFetchWord 3 4)) = some true ∧
    seen (fun t => t.trace) (step (State.reset.withFetchWord 4 0xB)) = some [.jtagIr 0xB] ∧
    seen (fun t => t.stage) (step (State.reset.withFetchWord 33 0x1F0000040)) = some .flush := by decide

/-! ### A state and operands that meet the hypotheses of each statement -/

/-- An access in flight. -/
def inFlight (rnw : Bool) (addr : BitVec 9) (wval : Word) (s : State) : State := { s with acc := ⟨rnw, addr, wval, 0⟩ }

/-- With acts of the host to take. -/
def hosted (l : List HostAction) (s : State) : State := { s with hostIn := l }

/-- A read over SWD, served. -/
theorem serves_read (c : Config) (w : Word) (rest : List TapReply) :
    servesOk .swd c true w (ack 1 :: word w :: rest) rest :=
  ⟨_, _, rfl, by decide, rfl, by simp [word, TapReply.word]⟩

/-- A write over SWD, served. -/
theorem serves_write (c : Config) (rest : List TapReply) : servesOk .swd c false 0 (ack 1 :: rest) rest :=
  ⟨⟨_, rfl, show (ack 1).ack = 0b001 by decide⟩, rfl⟩

/-- A FAULT over SWD. -/
theorem serves_fault (c : Config) (rest : List TapReply) : servesFault .swd c (ack 4 :: rest) rest :=
  ⟨_, rfl, show (ack 4).ack = 0b100 by decide⟩

/-- A read over JTAG, served. -/
theorem serves_scan : servesOk .jtag Config.standard true 0x24770011 [scan 0x123B80089] [] :=
  ⟨_, rfl, by decide, by decide⟩

/-- The same with `JTAG_POSTED`: the first scan's bits are dropped. -/
theorem serves_posted : servesOk .jtag posted.cfg true 0x24770011 [scan 0x780000001, scan 0x123B80089] [] :=
  ⟨_, ⟨_, rfl⟩, by decide, by decide⟩

/-- Answers that serve every access of a list over SWD, all values zero. -/
def zeros (p : List PlanItem) : List TapReply := p.flatMap (fun x => if x.rnw then [ack 1, word 0] else [ack 1])

theorem serves_zeros (c : Config) (rest : List TapReply) :
    ∀ p : List PlanItem, servesPlan .swd c p (p.map fun _ => 0) (zeros p ++ rest) rest
  | [] => rfl
  | ⟨true, _, _, _⟩ :: p => ⟨zeros p ++ rest, serves_read c 0 _, serves_zeros c rest p⟩
  | ⟨false, _, _, _⟩ :: p => ⟨zeros p ++ rest, serves_write c _, serves_zeros c rest p⟩

theorem test_hyp_DecodeOfEncode :
    (Instr.jtagApRdC 0).wellFormed = true ∧ (Instr.swdData 0xFFFFFFFF true).wellFormed = true := by decide

theorem test_hyp_EncodeOfDecode :
    decodeBytes (.jtagDr true) [0xFE, 0xFF, 0xFF, 0xFF, 0x07] = .ok (.jtagApWrC 0xFFFFFFFF) := by decide

/-- A configuration whose list names AP 7 twice, after AP 3. -/
theorem test_hyp_SelectAndCswValues :
    let c := { Config.standard with cswBase := [(3, 1), (7, 0xFFFFFFFF), (7, 2)] }
    (c.cswBase = [(3, 1)] ++ (7, 0xFFFFFFFF) :: [(7, 2)] ∧ ∀ e ∈ ([(3, 1)] : List (Byte × Word)), e.1 ≠ 7) ∧
    (∀ e ∈ c.cswBase, e.1 ≠ (0 : Byte)) ∧ cswBaseOf c 7 = 0xFFFFFFFF ∧ cswBaseOf c 0 = 0 :=
  ⟨⟨rfl, by simp⟩, by simp, by decide, by decide⟩

/-- R204: Size and AddrInc decide, the other bits do not; a size or an increment that differs does not fit. -/
theorem test_csw_fits :
    [0x12, 0x23000012, 0xFFFFFFDA, 0x11, 0x16, 0x02, 0x22].map (fun v => cswFits 2 (some v))
      = [true, true, true, false, false, false, false] ∧ cswFits 2 none = false := by decide

/-- The last two words of a block; the chunk cut by the default block, by the smallest and by the largest. -/
theorem test_hyp_ChunkStaysInBlock :
    let w : Window := ⟨2, 1, 0x200003F8, 0, 9⟩
    (w.sz ≠ 3 ∧ w.a.toNat % unitSize w.sz = 0 ∧ w.done.toNat < w.units.toNat) ∧
    [8, 0, 30].map (fun n => chunkUnits { Config.standard with tarWrapExtraBits := n } w) = [2, 1, 9] := by decide

/-- The largest unit of each size, at the highest lane. -/
theorem test_hyp_LanesOfDrw :
    (0xFF : Word).toNat < 2 ^ 8 ∧ (0xFFFFFFFE : Word).toNat % 2 = 0 ∧ (0xFFFF : Word).toNat < 2 ^ 16 ∧
    (0xFFFFFFFC : Word).toNat % 4 = 0 := by decide

theorem test_hyp_UnitBytesRoundTrip :
    (2 : BitVec 2) ≠ 3 ∧ (0xFFFFFFFC : Word).toNat % unitSize 2 = 0 ∧ (3 : Word).toNat % unitSize 0 = 0 := by decide

theorem test_hyp_ApCacheEffects : (1 : Byte) ≠ 0 ∧ swd.ap 0 = ⟨true, 0x24770011, none, none⟩ := by decide

theorem test_hyp_StepRunsDecoded_command :
    let s := hosted [.command 0x2F] swd
    s.stage = .idle ∧ s.hostIn = .command 0x2F :: [] ∧ decode .cmd ((0x2F : Byte).setWidth 40) = .ok .cacheInvalidate := by
  decide

theorem test_hyp_StepRunsDecoded_sent :
    let s := inFlight true 0x1FC 0 (atPhase .request .lowAccess swd)
    let j := inFlight false 0x004 0xFFFFFFFF (atPhase .request .lowAccess jtag)
    let w := inFlight false 0x004 0x80000000 (atPhase .data .lowAccess swd)
    (s.stage = .request ∧ s.wire = .swd ∧ decode .swdReq (s.acc.request.setWidth 40) = .ok .swdApRdC) ∧
    (j.stage = .request ∧ j.wire = .jtag ∧
      decode (.jtagDr (isAp j.acc.addr)) (j.acc.scanWord.setWidth 40) = .ok (.jtagDpWr4 0xFFFFFFFF)) ∧
    ((atPhase .ir .lowAccess jtag).stage = .ir ∧
      decode .jtagIr ((irCode (atPhase .ir .lowAccess jtag).acc.addr).setWidth 40) = .ok .jtagIrDpacc) ∧
    ((atPhase .reloadIr .lowAccess posted).stage = .reloadIr ∧
      decode .jtagIr ((irCode (inFlight true 0x1FC 0 (atPhase .reloadIr .lowAccess posted)).acc.addr).setWidth 40)
        = .ok .jtagIrApacc) ∧
    ((atPhase .collectIr .lowAccess posted).stage = .collectIr ∧ decode .jtagIr 0b1010 = .ok .jtagIrDpacc) ∧
    ((atPhase .collect .lowAccess posted).stage = .collect ∧ decode (.jtagDr false) 0x7 = .ok (.jtagDpRdC 0)) ∧
    (w.stage = .data ∧ w.acc.rnw = false ∧
      decode .swdData ((dataPhaseWord w.acc.wval (evenParity w.acc.wval)).setWidth 40)
        = .ok (.swdData 0x80000000 true)) ∧
    ((atPhase .flush .lowAccess swd).stage = .flush ∧ decode .swdFlush 0x00 = .ok .swdFlush) ∧
    ((atPhase .lineReset .scan swd).stage = .lineReset ∧ decode .lineReset 0xE79E = .ok .swdJtag2Swd) := by decide

/-- R99, R133: codes other than the SWD ones; each kind of pattern, and two equal codes, of which WAIT is tested first. -/
theorem test_hyp_StepRunsDecoded_jtag_codes :
    let c := { Config.standard with jtagAckOk := 2, jtagAckWait := 1, jtagAckFault := 2 }
    let s (b : BitVec 35) := answered [scan b] [7] { atPhase .ack .lowAccess jtag with cfg := c }
    let d (b : BitVec 35) := answered [scan b] [] { atPhase .ack .lowAccess jtag with
      cfg := { c with jtagAckFault := 7, jtagAckOk := 2 } }
    ((s 1).stage = .ack ∧ (s 1).wire = .jtag ∧ (s 1).tapIn = scan 1 :: []) ∧
    ((scan 1).ack = c.jtagAckWait ∧ seen (fun t => t.fsm) (step (s 1)) = some .retrying) ∧
    ((scan 2).ack = c.jtagAckFault ∧ seen (fun t => t.dp.fault) (step (s 2)) = some true) ∧
    seen (fun t => (t.dp.fault, t.port.rspStatus, t.stage)) (step (d 2)) = some (false, 0, .idle) ∧
    [0, 3, 4, 5, 6].all (fun b => seen (fun t => t.port.rspStatus) (step (d b)) = some 2) = true := by decide

theorem test_hyp_StepRunsDecoded_received :
    let s := answered [ack 7] [] (atPhase .ack .lowAccess swd)
    let j := answered [scan 0x780000001] [] (atPhase .ack .lowAccess jtag)
    let r := badWord 0xFFFFFFFF
    let d := inFlight true 0x004 0 (answered [r] [] (atPhase .data .lowAccess swd))
    (s.stage = .ack ∧ s.wire = .swd ∧ s.tapIn = ack 7 :: [] ∧
      decode .ack ((ack 7).ack.setWidth 40) = .ok .ackInvalid7) ∧
    (j.stage = .ack ∧ j.wire = .jtag ∧ j.tapIn = scan 0x780000001 :: [] ∧
      decode .ack ((jtagAck j.cfg (scan 0x780000001).ack).setWidth 40) = .ok .ackOk) ∧
    (d.stage = .data ∧ d.acc.rnw = true ∧ d.tapIn = r :: [] ∧
      decode .swdData ((dataPhaseWord r.word (if r.parityOk then evenParity r.word else !evenParity r.word)).setWidth 40)
        = .ok (.swdData 0xFFFFFFFF true)) := by decide

theorem test_hyp_HostWritesTaken :
    ([[], [.argAp 0xFF], [.argAddr 0xFFFFFFFF], [.argValue 1], [.argLen 0], [.hbuf 0xFFFFFFFF 0]] :
      List (List HostAction)).all (fun l => (hosted l swd).stage = .idle ∧ (hosted l swd).hostIn = l) = true := by decide

theorem test_hyp_UndefinedOpcodeRefused :
    let s := hosted [.command 0x00, .command 0xFF] swd
    s.stage = .idle ∧ s.hostIn = .command 0x00 :: [.command 0xFF] ∧ (0x00 : Byte) ∉ opcodes ∧ (0xFF : Byte) ∉ opcodes := by
  decide

theorem test_hyp_HostWaitsWhileBusy :
    let s := hosted [.argLen 1] (atPhase .start .lowAccess swd)
    s.stage ≠ .idle ∧ seen (fun t => t.stage) (step s) = some .clock ∧ Instr.memRead.isCommand = true := by decide

/-- Each format of link operations, out of its phase (the requests also at their phase on the other link). -/
theorem test_hyp_LinkWordsOutOfPhaseRefused :
    ([.swdApRdC, .jtagApRdC 0, .jtagIrApacc, .ackOk, .swdData 0 false, .swdFlush, .swdJtag2Swd] : List Instr).all
      (fun i => i.isCommand = false) = true ∧
    ¬ (swd.stage = .request ∧ swd.wire = .swd) ∧
    ¬ ((atPhase .request .lowAccess jtag).stage = .request ∧ (atPhase .request .lowAccess jtag).wire = .swd) ∧
    ¬ ((atPhase .request .lowAccess swd).stage = .request ∧ (atPhase .request .lowAccess swd).wire = .jtag) ∧
    swd.stage ≠ .collect ∧ swd.stage ≠ .ir ∧ swd.stage ≠ .reloadIr ∧ swd.stage ≠ .collectIr ∧ swd.stage ≠ .ack ∧
    swd.stage ≠ .data ∧ swd.stage ≠ .flush ∧ swd.stage ≠ .lineReset := by decide

/-- The short-circuit; a DP register under the latch; an AP register without it. -/
theorem test_hyp_ShortCircuit :
    let s := faulted (inFlight true 0x100 0 (atPhase .start .lowAccess swd))
    let d := faulted (inFlight true 0x0FC 0 (atPhase .start .lowAccess swd))
    let n := inFlight true 0x1FC 0 (atPhase .start .lowAccess jtag)
    (s.stage = .start ∧ s.acc.addr.getLsbD 8 = true ∧ s.dp.fault = true) ∧
    (d.stage = .start ∧ ¬ (d.acc.addr.getLsbD 8 = true ∧ d.dp.fault = true)) ∧
    (n.stage = .start ∧ ¬ (n.acc.addr.getLsbD 8 = true ∧ n.dp.fault = true)) := by decide

theorem test_hyp_ClockReadAndBlocking :
    let s := answered [] [0xFFFFFFFF] (atPhase .clock .lowAccess swd)
    (s.stage = .clock ∧ s.clkIn = 0xFFFFFFFF :: []) ∧
    ((atPhase .retryClock .lowAccess swd).stage = .retryClock ∧ swd.clkIn = []) ∧
    ((atPhase .ack .lowAccess swd).stage = .ack ∧ swd.tapIn = []) ∧
    ((inFlight true 0 0 (atPhase .data .lowAccess swd)).stage = .data ∧
      (inFlight true 0 0 (atPhase .data .lowAccess swd)).acc.rnw = true) ∧
    ((answered [scan 7] [] (atPhase .drain .lowAccess posted)).stage = .drain ∧
      (answered [scan 7] [] (atPhase .drain .lowAccess posted)).tapIn = scan 7 :: []) ∧
    ((atPhase .drain .lowAccess posted).stage = .drain ∧ posted.tapIn = []) := by decide

/-- An AP that is not present has no cache. -/
theorem oneAp_absent (c : Option Word) (i : Byte) (h : (ApTable.get (oneAp c) i).present = false) :
    (ApTable.get (oneAp c) i).cswCache = none ∧ (ApTable.get (oneAp c) i).tarCache = none := by
  have hr : ApTable.get State.reset.aps i = ⟨false, 0, none, none⟩ := ApTable.get_replicate i _
  rw [oneAp, ApTable.get_change] at h ⊢
  split at h
  · cases h
  · next hi => rw [if_neg hi, hr]; exact ⟨rfl, rfl⟩

/-- Inside a memory transfer, and inside a posted access. -/
def midMem : State := atPhase .start (.mem true (.prime 1)) { mem 0x200003FC 4 with win := windowOf 0x200003FC 4 }
def midPosted : State := { atPhase .collect .lowAccess posted with fsm := .requestSent, fsmLog := [.requestSent] }

/-- States that meet the invariant between two commands, inside a memory transfer, inside a posted access; each takes a
step. -/
theorem test_hyp_StepKeepsInvariant :
    ((hosted [.command 0x2F] swd).Inv ∧ midMem.Inv ∧ midPosted.Inv) ∧
    seen (fun t => t.hostIn) (step (hosted [.command 0x2F] swd)) = some [] ∧
    seen (fun t => t.stage) (step midMem) = some .clock ∧ seen (fun t => t.stage) (step midPosted) = some .ack := by
  refine ⟨⟨⟨by decide, oneAp_absent _, by decide, by decide, by decide, rfl, (if_neg (by decide)).mpr rfl, by decide,
      trivial⟩,
    ⟨by decide, oneAp_absent _, by decide, by decide, by decide, ⟨by decide, by decide, by decide, by decide⟩,
      (if_neg (by decide)).mpr rfl, by decide, ⟨by decide, by decide, by decide, by decide, by decide, by decide⟩⟩,
    ⟨by decide, oneAp_absent _, by decide, by decide, by decide, ⟨by decide, by decide, by decide, by decide⟩,
      (if_neg (by decide)).mpr rfl, by decide, trivial⟩⟩, by decide, by decide, by decide⟩

/-- A step to a next state; it is asked for by the statements about the configuration and the calls as well. -/
theorem test_hyp_StepKeepsConfig_CallsAppendOnly :
    seen (fun t => t.trace) (step (answered [ack 1] [] (atPhase .ack .lowAccess swd))) = some [.seqIn 3] := by decide

/-- DP_ERROR clears the latch with its last move; DETACH clears it. -/
theorem test_hyp_FaultLatchSticky :
    let s := faulted (atPhase .flush (.errorAbort 0x20) swd)
    let d := faulted (hosted [.command 0x03] swd)
    (s.dp.fault = true ∧ seen (fun t => t.dp.fault) (step s) = some false) ∧
    (d.dp.fault = true ∧ seen (fun t => t.dp.fault) (step d) = some false) := by decide

/-- A link operation, a step of a running command, a step that runs a command. -/
theorem test_hyp_FaultLatchSetByFaultOnly :
    let s := atPhase .ack .lowAccess swd
    let r := answered [ack 4] [] s
    let h := hosted [.command 0x10] (answered [ack 4] [0] swd)
    (Instr.ackFault.isCommand = false ∧ s.dp.fault = false ∧ seen (fun t => t.dp.fault) (exec .ackFault s) = some true) ∧
    (r.dp.fault = false ∧ seen (fun t => t.dp.fault) (step r) = some true) ∧
    (h.dp.fault = false ∧ seen (fun t => t.dp.fault) (step h) = some true) := by decide

/-- A command that completes, one that waits for the clock, one that waits for the transport. -/
theorem test_hyp_CommandCompletesOrWaits :
    Instr.detach.isCommand = true ∧ Instr.lowAccessRd.isCommand = true ∧ swd.stage = .idle ∧
    seen (fun t => t.stage) (exec .detach swd) = some .idle ∧
    seen (fun t => t.stage) (exec .lowAccessRd swd) = some .clock ∧
    seen (fun t => t.stage) (exec .lowAccessRd (answered [ack 2] [5] swd)) = some .retryClock ∧
    seen (fun t => t.stage) (exec .lowAccessRd (answered [] [5] swd)) = some .ack ∧
    seen (fun t => (t.stage, t.acc.rnw)) (exec .lowAccessRd (answered [ack 1] [5] swd)) = some (.data, true) ∧
    seen (fun t => t.stage) (exec .lowAccessRd (answered [] [5] posted)) = some .drain := by decide

theorem test_hyp_SwdRequestsSend :
    let s := inFlight true 0x1FC 0 (atPhase .request .scan swd)
    s.stage = .request ∧ s.wire = .swd ∧ requestTable ≠ [] := by decide

theorem test_hyp_JtagScansShift :
    let s := inFlight false 0x10C 0xFFFFFFFF (atPhase .request .lowAccess jtag)
    s.stage = .request ∧ s.wire = .jtag ∧ scanTable 0 ≠ [] ∧ (atPhase .collect .lowAccess posted).stage = .collect := by
  decide

theorem test_hyp_JtagIrLoads :
    (atPhase .ir .lowAccess jtag).stage = .ir ∧ (atPhase .reloadIr .lowAccess posted).stage = .reloadIr ∧
    (atPhase .collectIr .lowAccess posted).stage = .collectIr := by decide

theorem test_hyp_AckOkProceeds :
    let s := atPhase .ack .lowAccess swd
    let j := atPhase .ack .lowAccess jtag
    let d := atPhase .ack .scan swd
    (s.stage = .ack ∧ s.cont ≠ .scan ∧ s.dp.variant = .swd) ∧
    (j.stage = .ack ∧ j.cont ≠ .scan ∧ j.dp.variant = .jtag) ∧ (d.stage = .ack ∧ d.cont = .scan) := by decide

/-- No reading; the last reading below the bound; the first at it; the same where the reading comes later, with the
snapshot at 0 and, the clock having wrapped, at 0xFFFFFFFF. -/
theorem test_hyp_AckWaitRetriesOrTimesOut :
    let s := atPhase .ack .lowAccess swd
    let b := answered [] [1999] s
    let a := answered [] [2000] s
    (s.stage = .ack ∧ s.cont ≠ .scan ∧ s.clkIn = []) ∧
    (b.clkIn = 1999 :: [] ∧ ((1999 : Word) - b.t0).toNat < b.cfg.waitTimeoutMs.toNat) ∧
    (a.clkIn = 2000 :: [] ∧ a.cfg.waitTimeoutMs.toNat ≤ ((2000 : Word) - a.t0).toNat) ∧
    let q (n : Word) := { answered [] [n] (atPhase .retryClock .lowAccess swd) with t0 := 0xFFFFFFFF }
    ((q 1998).stage = .retryClock ∧ (q 1998).clkIn = 1998 :: [] ∧
      ((1998 : Word) - (q 1998).t0).toNat < (q 1998).cfg.waitTimeoutMs.toNat) ∧
    ((q 1999).clkIn = 1999 :: [] ∧ (q 1999).cfg.waitTimeoutMs.toNat ≤ ((1999 : Word) - (q 1999).t0).toNat) ∧
    seen (fun t => (t.stage, t.t0)) (step (q 1998)) = some (.request, 0xFFFFFFFF) ∧
    seen (fun t => (t.port.rspStatus, t.fsm)) (step (q 1999)) = some (1, .idle) ∧
    let z (n : Word) := answered [] [n] (atPhase .retryClock .lowAccess swd)
    seen (fun t => t.stage) (step (z 1999)) = some .request ∧ seen (fun t => t.port.rspStatus) (step (z 2000)) = some 1 ∧
    seen (fun t => t.stage) (exec .ackWait b) = some .request ∧
    seen (fun t => t.stage) (exec .ackWait (inFlight true 0x100 0 (answered [] [1999] (atPhase .ack .lowAccess posted))))
      = some .reloadIr := by decide

theorem test_hyp_AckFaultLatches_InvalidAckRaises :
    let s := atPhase .ack (.mem false .csw) jtag
    s.stage = .ack ∧ s.cont ≠ .scan := by decide

theorem test_hyp_ScanAckFails : (atPhase .ack .scan swd).stage = .ack ∧ (atPhase .ack .scan swd).cont = .scan := by decide

theorem test_hyp_DataPhase :
    let r := inFlight true 0x004 0 (atPhase .data .lowAccess swd)
    let w := inFlight false 0x004 0 (atPhase .data .lowAccess swd)
    let d := inFlight true 0x000 0 (atPhase .data .scan swd)
    (r.stage = .data ∧ r.acc.rnw = true ∧ true = evenParity 0x80000000 ∧ true ≠ evenParity 0xFFFFFFFF ∧ r.cont ≠ .scan) ∧
    (d.stage = .data ∧ d.acc.rnw = true ∧ true ≠ evenParity 0 ∧ d.cont = .scan) ∧
    (w.stage = .data ∧ w.acc.rnw = false) := by decide

theorem test_hyp_FlushCompletes :
    let s := atPhase .flush .lowAccess swd
    let d := atPhase .flush .scan swd
    (s.stage = .flush ∧ s.cont ≠ .scan) ∧ (d.stage = .flush ∧ d.cont = .scan) := by decide

theorem test_hyp_SwitchSequence : (atPhase .lineReset .scan swd).stage = .lineReset := by decide

theorem test_hyp_WireSilentCommands : swd.stage = .idle ∧ State.reset.stage = .idle := by decide

theorem test_hyp_NoDebugPortRefused : Instr.memWrite ∈ commandsNeedingDp ∧
    State.reset.stage = .idle ∧ State.reset.dp.valid = false := by decide

theorem test_hyp_AbsentApRefused :
    let s := { swd with port := { swd.port with argAp := 0xFF } }
    s.stage = .idle ∧ s.dp.valid = true ∧ s.apPresent s.port.argAp = false := by decide

/-- Each check of R201, with everything before it passed; length 0 also under the latch. -/
theorem test_hyp_EntryChecks :
    let a := { swd with port := { swd.port with argAp := 5 } }
    let z := faulted (mem 0x20000000 0)
    let f := faulted (mem 0x20000000 1)
    (State.reset.stage = .idle ∧ State.reset.dp.valid = false) ∧
    (a.stage = .idle ∧ a.dp.valid = true ∧ a.apPresent a.port.argAp = false) ∧
    (z.stage = .idle ∧ z.dp.valid = true ∧ z.apPresent z.port.argAp = true ∧ z.port.argLen = 0) ∧
    (f.stage = .idle ∧ f.dp.valid = true ∧ f.apPresent f.port.argAp = true ∧ f.port.argLen ≠ 0 ∧ f.dp.fault = true) := by
  decide

theorem test_hyp_SkippedCommands :
    let s := faulted (withArgs 0x100 0 swd)
    s.stage = .idle ∧ s.dp.valid = true ∧ s.dp.fault = true ∧ s.argReg.getLsbD 8 = true := by decide

theorem test_hyp_DpScan :
    let s := answered [ack 1, word 0] [] swd
    let f := answered [ack 7] [] swd
    let b := answered [ack 1, badWord 0] [] swd
    (s.stage = .idle ∧ s.tapIn = ack 1 :: word 0 :: [] ∧ (ack 1).ack = 0b001 ∧ (word 0).parityOk = true) ∧
    (f.tapIn = ack 7 :: [] ∧ (ack 7).ack ≠ 0b001) ∧
    (b.tapIn = ack 1 :: badWord 0 :: [] ∧ (badWord 0).parityOk = false) := by decide

/-- A read of a DP register under the latch; a write of an AP register without it; both links. -/
theorem test_hyp_SingleAccessCommands :
    let r := faulted (answered [ack 1, word 5] [9] (withArgs 0x0FC 0 swd))
    let w := answered [ack 1] [9] (withArgs 0x1FC 1 swd)
    let j := answered [scan 0x123B80089] [9] (withArgs 0x1FC 0 jtag)
    (r.stage = .idle ∧ r.dp.valid = true ∧ r.clkIn = 9 :: [] ∧ ¬ (r.argReg.getLsbD 8 = true ∧ r.dp.fault = true)) ∧
    servesOk r.dp.variant r.cfg true 5 r.tapIn [] ∧
    (w.stage = .idle ∧ w.dp.valid = true ∧ w.clkIn = 9 :: [] ∧ ¬ (w.argReg.getLsbD 8 = true ∧ w.dp.fault = true)) ∧
    servesOk w.dp.variant w.cfg false 0 w.tapIn [] ∧
    (j.stage = .idle ∧ j.clkIn = 9 :: []) ∧ servesOk j.dp.variant j.cfg true 0x24770011 j.tapIn [] ∧
    servesOk posted.dp.variant posted.cfg true 0x24770011 [scan 0x780000001, scan 0x123B80089] [] :=
  ⟨by decide, serves_read _ 5 [], by decide, serves_write _ [], by decide, serves_scan, serves_posted⟩

theorem test_hyp_DpReadPipelined :
    let d := answered [ack 1, word 5] [9] (withArgs 0x0FC 0 swd)
    let a := answered [ack 1, word 5, ack 1, word 6] [9, 9] (withArgs 0x100 0 swd)
    (d.stage = .idle ∧ d.dp.valid = true ∧ d.argReg.getLsbD 8 = false ∧ d.clkIn = 9 :: []) ∧
    servesOk d.dp.variant d.cfg true 5 d.tapIn [] ∧
    (a.stage = .idle ∧ a.dp.valid = true ∧ a.argReg.getLsbD 8 = true ∧ a.dp.fault = false ∧ a.clkIn = 9 :: 9 :: []) ∧
    servesOk a.dp.variant a.cfg true 5 a.tapIn [ack 1, word 6] ∧
    servesOk a.dp.variant a.cfg true 6 [ack 1, word 6] [] :=
  ⟨by decide, serves_read _ 5 [], by decide, serves_read _ 5 _, serves_read _ 6 []⟩

/-- The first access; DP_ABORT under the latch; the RDBUFF read. -/
theorem test_hyp_FaultedDpCommands :
    let s := answered [ack 4] [9] (withArgs 0x10C 0 swd)
    let b := faulted s
    let r := answered [ack 1, word 5, ack 4] [9, 9] (withArgs 0x100 0 swd)
    (s.stage = .idle ∧ s.dp.valid = true ∧ s.cfg.flushOnNonOk = false ∧ s.dp.fault = false ∧ s.clkIn = 9 :: []) ∧
    servesFault s.dp.variant s.cfg s.tapIn [] ∧ servesFault b.dp.variant b.cfg b.tapIn [] ∧
    (r.argReg.getLsbD 8 = true ∧ r.dp.fault = false ∧ r.clkIn = 9 :: 9 :: []) ∧
    servesOk r.dp.variant r.cfg true 5 r.tapIn [ack 4] ∧ servesFault r.dp.variant r.cfg [ack 4] [] :=
  ⟨by decide, serves_fault _ [], serves_fault _ [], by decide, serves_read _ 5 _, serves_fault _ []⟩

theorem test_hyp_DpErrorClears :
    let a := answered [ack 1, word 0xB2, ack 1] [9, 9] swd
    let b := answered [ack 4, ack 1] [9, 9] swd
    let c := answered [ack 1, word 0x20, ack 4] [9, 9] swd
    (a.stage = .idle ∧ a.dp.valid = true ∧ a.clkIn = 9 :: 9 :: [] ∧ a.cfg.flushOnNonOk = false) ∧
    (servesOk a.dp.variant a.cfg true 0xB2 a.tapIn [ack 1] ∧ servesOk a.dp.variant a.cfg false 0 [ack 1] []) ∧
    (servesFault b.dp.variant b.cfg b.tapIn [ack 1] ∧ servesOk b.dp.variant b.cfg false 0 [ack 1] []) ∧
    (servesOk c.dp.variant c.cfg true 0x20 c.tapIn [ack 4] ∧ servesFault c.dp.variant c.cfg [ack 4] []) :=
  ⟨by decide, ⟨serves_read _ _ _, serves_write _ _⟩, ⟨serves_fault _ _, serves_write _ _⟩,
    ⟨serves_read _ _ _, serves_fault _ _⟩⟩

/-- SELECT cached, and not. -/
theorem test_hyp_ApReadReturns :
    let h := answered [ack 1, word 5, ack 1, word 6] [9, 9] { withArgs 0xFC 0 swd with
      dp := { swd.dp with selCache := some (0, 0xF) } }
    let m := answered [ack 1, ack 1, word 5, ack 1, word 6] [9, 9, 9] (withArgs 0xFC 0 swd)
    (h.stage = .idle ∧ h.dp.valid = true ∧ h.apPresent h.port.argAp = true ∧ h.dp.fault = false ∧
      h.dp.selCache = some (h.port.argAp, (h.port.argAddr.setWidth 8 : Byte).extractLsb' 4 4) ∧ h.clkIn = 9 :: 9 :: []) ∧
    (servesOk h.dp.variant h.cfg true 5 h.tapIn [ack 1, word 6] ∧
      servesOk h.dp.variant h.cfg true 6 [ack 1, word 6] []) ∧
    (m.dp.selCache ≠ some (m.port.argAp, (m.port.argAddr.setWidth 8 : Byte).extractLsb' 4 4) ∧
      m.clkIn = 9 :: 9 :: 9 :: []) ∧
    servesOk m.dp.variant m.cfg false 0 m.tapIn [ack 1, word 5, ack 1, word 6] :=
  ⟨by decide, ⟨serves_read _ _ _, serves_read _ _ _⟩, by decide, serves_write _ _⟩

theorem test_hyp_ApWriteSends :
    let h := answered [ack 1] [9] { withArgs 0x0C 1 swd with dp := { swd.dp with selCache := some (0, 0) } }
    let m := answered [ack 1, ack 1] [9, 9] (withArgs 0x0C 1 swd)
    (h.stage = .idle ∧ h.dp.valid = true ∧ h.apPresent h.port.argAp = true ∧ h.dp.fault = false ∧
      h.dp.selCache = some (h.port.argAp, (h.port.argAddr.setWidth 8 : Byte).extractLsb' 4 4) ∧ h.clkIn = 9 :: []) ∧
    servesOk h.dp.variant h.cfg false 0 h.tapIn [] ∧
    (m.dp.selCache ≠ some (m.port.argAp, (m.port.argAddr.setWidth 8 : Byte).extractLsb' 4 4) ∧ m.clkIn = 9 :: 9 :: []) ∧
    servesOk m.dp.variant m.cfg false 0 m.tapIn [ack 1] :=
  ⟨by decide, serves_write _ _, by decide, serves_write _ _⟩

/-- A FAULT on SELECT; on the AP access after SELECT; on RDBUFF with SELECT cached. -/
theorem test_hyp_ApCommandsFaulted :
    let s := answered [ack 4] [9] (withArgs 0x04 1 swd)
    let a := answered [ack 1, ack 4] [9, 9] (withArgs 0x04 1 swd)
    let u := setSelCache (some (0, 0)) (a.afterOk false 0x008 (selectValue 0 0) [ack 4] [9])
    let r := answered [ack 1, word 5, ack 4] [9, 9] { withArgs 0x04 1 swd with dp := { swd.dp with selCache := some (0, 0) } }
    (s.stage = .idle ∧ s.dp.valid = true ∧ s.apPresent s.port.argAp = true ∧ s.dp.fault = false ∧
      s.cfg.flushOnNonOk = false ∧
      s.dp.selCache ≠ some (s.port.argAp, (s.port.argAddr.setWidth 8 : Byte).extractLsb' 4 4) ∧ s.clkIn = 9 :: []) ∧
    servesFault s.dp.variant s.cfg s.tapIn [] ∧
    a.selects 0 0 u ∧ u.clkIn = 9 :: [] ∧ servesFault a.dp.variant a.cfg u.tapIn [] ∧
    r.selects 0 0 r ∧ servesOk r.dp.variant r.cfg true 5 r.tapIn [ack 4] ∧ servesFault r.dp.variant r.cfg [ack 4] [] :=
  ⟨by decide, serves_fault _ _, .inr ⟨by decide, 9, [9], [ack 4], rfl, serves_write _ _, rfl⟩, rfl, serves_fault _ _,
    .inl ⟨by decide, rfl⟩, serves_read _ 5 _, serves_fault _ _⟩

/-- Answers and readings for a list of accesses. -/
def ready (p : List PlanItem) (s : State) : State := answered (zeros p ++ []) (p.map (fun _ => 9) ++ []) s

/-- The stop policy, ended by the first candidate. -/
theorem test_hyp_ApScanFinds_stop :
    let p := scanPlan swd.dp.selCache 1
    let s := ready p swd
    (s.stage = .idle ∧ s.dp.valid = true ∧ s.dp.fault = false) ∧ scanEnds s.cfg.apScanStopAtFirstZero [0] ∧
    scanPlan s.dp.selCache ([0] : List Word).length = p ∧ servesPlan s.dp.variant s.cfg p (p.map fun _ => 0) s.tapIn [] ∧
    keptValues p (p.map fun _ => 0) = [0] ∧ s.clkIn = p.map (fun _ => 9) ++ [] ∧ (p.map fun _ => (9 : Word)).length = p.length :=
  ⟨by decide, Or.inr ⟨rfl, [], rfl, by decide, by simp⟩, rfl, serves_zeros _ _ _, by decide, rfl, List.length_map _⟩

/-- The full scan. -/
def full : State := { swd with cfg := { Config.standard with apScanStopAtFirstZero := false } }

theorem test_hyp_ApScanFinds_full :
    let p := scanPlan full.dp.selCache 256
    let s := ready p full
    (s.stage = .idle ∧ s.dp.valid = true ∧ s.dp.fault = false) ∧
    scanEnds s.cfg.apScanStopAtFirstZero (List.replicate 256 0) ∧
    servesPlan s.dp.variant s.cfg p (p.map fun _ => 0) s.tapIn [] ∧
    keptValues p (p.map fun _ => 0) = List.replicate 256 0 ∧ s.clkIn = p.map (fun _ => 9) ++ [] :=
  ⟨⟨rfl, rfl, rfl⟩, Or.inl ⟨by decide, fun h => absurd h Bool.false_ne_true⟩, serves_zeros _ _ _, by decide +kernel, rfl⟩

/-- The latch at entry; a FAULT on SELECT of candidate 0, and on RDBUFF of candidate 1 after one AP was found. -/
theorem test_hyp_ApScanFinds_fault :
    let a := answered [ack 4] [9] swd
    let p := (scanPlan swd.dp.selCache 2).take 5
    let b := answered [ack 1, ack 1, word 0, ack 1, word 5, ack 1, ack 1, word 0, ack 4] (List.replicate 6 9) swd
    ((faulted swd).dp.fault = true ∧ (faulted swd).cont = .none) ∧
    (a.stage = .idle ∧ a.dp.valid = true ∧ a.dp.fault = false ∧ a.cfg.flushOnNonOk = false) ∧
    (scanPlan swd.dp.selCache 1)[0]? = some ⟨false, 0x008, selectValue 0 0xF, false⟩ ∧
    servesPlan a.dp.variant a.cfg ((scanPlan swd.dp.selCache 1).take 0) [] a.tapIn [ack 4] ∧
    servesFault a.dp.variant a.cfg [ack 4] [] ∧
    ((scanPlan swd.dp.selCache 1).length ≤ 5 ∧ (scanPlan swd.dp.selCache 2)[5]? = some ⟨true, 0x00C, 0, true⟩) ∧
    servesPlan b.dp.variant b.cfg p [0, 0, 5, 0, 0] b.tapIn [ack 4] ∧ keptValues p [0, 0, 5, 0, 0] = [5] ∧
    servesFault b.dp.variant b.cfg [ack 4] [] :=
  ⟨by decide, by decide, by decide, rfl, serves_fault _ _, by decide,
    ⟨_, serves_write _ _, _, serves_read _ 0 _, _, serves_read _ 5 _, _, serves_write _ _, _, serves_read _ 0 _, rfl⟩,
    by decide, serves_fault _ _⟩

/-- A transfer of eight bytes over the top of the address space, and one of a single byte. -/
theorem test_hyp_MemTransfers :
    ∀ a ∈ [((0xFFFFFFFC : Word), (8 : Word)), (0x20000003, 1)], ∀ rd : Bool,
    let p := memPlan rd (mem a.1 a.2)
    let s := ready p (mem a.1 a.2)
    (s.stage = .idle ∧ s.dp.valid = true ∧ s.apPresent s.port.argAp = true ∧ s.dp.fault = false ∧ s.port.argLen ≠ 0) ∧
    memPlan rd s = p ∧ servesPlan s.dp.variant s.cfg p (p.map fun _ => 0) s.tapIn [] ∧
    s.clkIn = p.map (fun _ => 9) ++ [] ∧ (p.map fun _ => (9 : Word)).length = p.length := by
  intro a ha rd
  refine ⟨?_, rfl, serves_zeros _ _ _, rfl, List.length_map _⟩
  simp only [List.mem_cons, List.not_mem_nil, or_false] at ha
  rcases ha with rfl | rfl
  · exact ⟨rfl, rfl, rfl, rfl, show (8 : Word) ≠ 0 by decide⟩
  · exact ⟨rfl, rfl, rfl, rfl, show (1 : Word) ≠ 0 by decide⟩

theorem test_hyp_MemFaultPath :
    let s := atPhase .ack (.mem true (.unit 1)) swd
    let f := atPhase .flush (.mem true .abort) swd
    let g := atPhase .ack (.mem false .abort) swd
    (s.stage = .ack ∧ s.cont = .mem true (.unit 1) ∧ MemPos.unit 1 ≠ .abort) ∧
    let j := atPhase .ack (.mem true .abort) jtag
    (f.stage = .flush ∧ f.cont = .mem true .abort) ∧ (g.stage = .ack ∧ g.cont = .mem false .abort) ∧
    (j.stage = .ack ∧ j.cont = .mem true .abort ∧ j.dp.variant = .jtag) := by decide

/-- One WAIT over SWD, and over a posted JTAG. -/
theorem serves_wait (c : Config) (rest : List TapReply) : servesWaits .swd c 1 (ack 2 :: rest) rest :=
  ⟨rest, ⟨ack 2, rfl, show (ack 2).ack = 0b010 by decide⟩, rfl⟩

theorem serves_posted_wait (rest : List TapReply) : servesWaits .jtag posted.cfg 1 (scan 7 :: scan 2 :: rest) rest :=
  ⟨rest, ⟨scan 2, ⟨scan 7, rfl⟩, by decide⟩, rfl⟩

/-- One WAIT just inside the window, then OK, over SWD and over a posted JTAG; or then one just at its end. -/
theorem test_hyp_BoundedRetry :
    let s := answered [ack 2, ack 1, word 5] [0, 1999] (withArgs 0x004 0 swd)
    let j := answered [scan 7, scan 2, scan 0x780000001, scan 0x123B80089] [0, 1999] (withArgs 0x1FC 0 posted)
    let t := answered [ack 2, ack 2] [0, 1999, 2000] (withArgs 0x004 0 swd)
    (s.stage = .idle ∧ s.dp.valid = true ∧ s.cfg.flushOnNonOk = false ∧
      ¬ (s.argReg.getLsbD 8 = true ∧ s.dp.fault = true) ∧
      ∀ now ∈ ([1999] : List Word), (now - 0).toNat < s.cfg.waitTimeoutMs.toNat) ∧
    servesWaits s.dp.variant s.cfg 1 s.tapIn [ack 1, word 5] ∧ s.clkIn = 0 :: [1999] ++ [] ∧
    servesOk s.dp.variant s.cfg true 5 [ack 1, word 5] [] ∧
    servesWaits j.dp.variant j.cfg 1 j.tapIn [scan 0x780000001, scan 0x123B80089] ∧
    servesOk j.dp.variant j.cfg true 0x24770011 [scan 0x780000001, scan 0x123B80089] [] ∧
    servesWaits t.dp.variant t.cfg 1 t.tapIn [ack 2] ∧ t.clkIn = 0 :: [1999] ++ 2000 :: [] ∧
    servesAck t.dp.variant t.cfg 0b010 [ack 2] [] ∧ t.cfg.waitTimeoutMs.toNat ≤ ((2000 : Word) - 0).toNat :=
  ⟨⟨rfl, rfl, rfl, by decide, List.forall_mem_singleton.mpr (by decide)⟩, serves_wait _ _, rfl, serves_read _ _ _, serves_posted_wait _, serves_posted, serves_wait _ _, rfl,
    ⟨ack 2, rfl, show (ack 2).ack = 0b010 by decide⟩, by decide⟩

end Sys2Proof.Tests
end

/-! ### What the engine takes next: the host's act, an answer, or nothing (R10, R11, R27) -/

namespace Sys2Proof.Machine

/-- A word of the command format is a host command (R107). -/
theorem decode_command {w : BitVec 40} {i : Instr} (h : decode .cmd w = .ok i) : i.isCommand = true := by
  have hrows : ∀ r ∈ fixedRows, r.fmt = .cmd → r.instr.isCommand = true := by decide
  change decodeFixed .cmd w = .ok i at h
  unfold decodeFixed at h
  split at h
  · next r hr =>
    injection h with h
    subst h
    have hfmt := List.find?_some hr
    simp only [Bool.and_eq_true, decide_eq_true_iff] at hfmt
    exact hrows r (List.mem_of_find?_eq_some hr) hfmt.1
  · cases h

section
variable {s : State}

/-- With no act of the host at hand the idle engine waits (log 1). -/
theorem step_idle_waits (h : s.stage = .idle) (hh : s.hostIn = []) : step s = .next s := by
  simp [step, fetch, fetchHost, h, hh]

/-- The idle engine takes a write of an operand register or of HBUF (R27, R28). -/
theorem step_idle_write {a : HostAction} {rest : List HostAction} (h : s.stage = .idle) (hh : s.hostIn = a :: rest)
    (ha : ∀ op, a ≠ .command op) : step s = .next (hostWrite a (s.setHostIn rest)) := by
  cases a with
  | command op => exact absurd rfl (ha op)
  | argAp v => simp [step, fetch, fetchHost, h, hh]
  | argAddr v => simp [step, fetch, fetchHost, h, hh]
  | argValue v => simp [step, fetch, fetchHost, h, hh]
  | argLen v => simp [step, fetch, fetchHost, h, hh]
  | hbuf i b => simp [step, fetch, fetchHost, h, hh]

/-- The idle engine takes an opcode of R107 and runs its command. -/
theorem step_idle_command {op : Byte} {rest : List HostAction} {i : Instr} (h : s.stage = .idle)
    (hh : s.hostIn = .command op :: rest) (hd : decode .cmd (op.setWidth 40) = .ok i) :
    step s = exec i (hostWrite (.command op) (s.setHostIn rest)) := by
  simp [step, fetch, fetchHost, h, hh, hd]

/-- The idle engine takes an opcode not in R107: BAD_CMD (R108 a). -/
theorem step_idle_undefined {op : Byte} {rest : List HostAction} {e : DecodeError} (h : s.stage = .idle)
    (hh : s.hostIn = .command op :: rest) (hd : decode .cmd (op.setWidth 40) = .error e) :
    step s = .next (setStatus .badCmd (hostWrite (.command op) (s.setHostIn rest))) := by
  simp [step, fetch, fetchHost, h, hh, hd, rejectWord]

/-- A clock reading that has not come blocks the command (R11, log 3). -/
theorem linkStep_clock_blocked (h : s.stage = .clock ∨ s.stage = .retryClock) (hc : s.clkIn = []) :
    linkStep s = .next s := by
  rcases h with h | h <;> simp [linkStep, fetch, fetchClock, h, hc]

/-- An answer of the transport that has not come blocks the command (R10, log 2). -/
theorem linkStep_tap_blocked (h : s.stage = .drain ∨ s.stage = .ack ∨ s.stage = .data ∧ s.acc.rnw = true)
    (ht : s.tapIn = []) : linkStep s = .next s := by
  rcases h with h | h | ⟨h, hr⟩
  · simp [linkStep, fetch, fetchDrain, h, ht]
  · simp [linkStep, fetch, fetchAck, h, ht]
  · simp [linkStep, fetch, fetchData, h, hr, ht]

/-- At any phase but idle, a step is what `linkStep` is there. -/
theorem step_at {g : Stage} (h : s.stage = g) (hg : g ≠ .idle) : step s = linkStep s :=
  step_busy (h ▸ hg)
end

end Sys2Proof.Machine

/-! ### How a host command begins -/

namespace Sys2Proof.Machine

/-- What a host command does before its first link operation; a link operation begins no command. -/
def commandBegin : Instr → State → State
  | .dpScan => beginDpScan
  | .dpAttachJtag => attachJtag
  | .detach => detach
  | .lowAccessRd => beginLowAccessRd
  | .lowAccessWr => beginLowAccessWr
  | .dpRead => beginDpRead
  | .dpWrite => beginDpWrite
  | .dpError => beginDpError
  | .dpAbort => beginDpAbort
  | .apScan => beginApScan
  | .apRead => beginApRead
  | .apWrite => beginApWrite
  | .memRead => beginMem true
  | .memWrite => beginMem false
  | .cacheInvalidate => cacheInvalidate
  | _ => id

/-- Every host command is its beginning, launched while no command runs (R296, log 5). -/
theorem exec_command {i : Instr} (h : i.isCommand = true) (s : State) : exec i s = onIdle (commandBegin i) s := by
  cases i
  case dpScan | dpAttachJtag | detach | lowAccessRd | lowAccessWr | dpRead | dpWrite | dpError | dpAbort | apScan
    | apRead | apWrite | memRead | memWrite | cacheInvalidate => rfl
  all_goals exact absurd h Bool.false_ne_true

theorem setStatus_quiet (r : Status) (s : State) : Quiet s (setStatus r s) := ⟨rfl, rfl, rfl, rfl, rfl, rfl, rfl, rfl⟩

theorem setWin_quiet (w : Window) (s : State) : Quiet s (s.setWin w) := ⟨rfl, rfl, rfl, rfl, rfl, rfl, rfl, rfl⟩

theorem discardAps_quiet (s : State) : Quiet s (discardAps s) := ⟨rfl, rfl, rfl, rfl, rfl, rfl, rfl, rfl⟩

theorem attachJtag_quiet (s : State) : Quiet s (attachJtag s) := ⟨rfl, rfl, rfl, rfl, rfl, rfl, rfl, rfl⟩

theorem detach_quiet (s : State) : Quiet s (detach s) := ⟨rfl, rfl, rfl, rfl, rfl, rfl, rfl, rfl⟩

theorem cacheInvalidate_quiet (s : State) : Quiet s (cacheInvalidate s) := ⟨rfl, rfl, rfl, rfl, rfl, rfl, rfl, rfl⟩

theorem rawCacheEffects_quiet (addr : BitVec 9) (w : Bool) (v : Word) (s : State) :
    Quiet s (rawCacheEffects addr w v s) := by
  unfold rawCacheEffects
  repeat' split
  all_goals exact ⟨rfl, rfl, rfl, rfl, rfl, rfl, rfl, rfl⟩

/-- The cache effects of R165 and the call of `low_access` that follows them. -/
theorem rawAccess_quiet (rnw : Bool) (addr : BitVec 9) (wval v : Word) (w : Bool) (k : Cont) (s : State) :
    Quiet s (beginAccess rnw addr wval k (rawCacheEffects addr w v s)) :=
  (rawCacheEffects_quiet addr w v s).trans (beginAccess_quiet _ _ _ _ _)

theorem needDp_quiet {f : State → State} {s : State} (h : Quiet s (f s)) : Quiet s (needDp f s) := by
  unfold needDp
  split
  · exact h
  · exact setStatus_quiet _ s

theorem needAp_quiet {f : State → State} {s : State} (h : Quiet s (f s)) : Quiet s (needAp f s) := by
  refine needDp_quiet ?_
  split
  · exact h
  · exact setStatus_quiet _ s

theorem beginLowAccessRd_quiet (s : State) : Quiet s (beginLowAccessRd s) :=
  needDp_quiet (rawAccess_quiet _ _ _ _ _ _ s)

theorem beginLowAccessWr_quiet (s : State) : Quiet s (beginLowAccessWr s) :=
  needDp_quiet (rawAccess_quiet _ _ _ _ _ _ s)

theorem beginDpRead_quiet (s : State) : Quiet s (beginDpRead s) :=
  needDp_quiet (rawAccess_quiet _ _ _ _ _ _ s)

theorem beginDpWrite_quiet (s : State) : Quiet s (beginDpWrite s) :=
  needDp_quiet (rawAccess_quiet _ _ _ _ _ _ s)

theorem beginDpError_quiet (s : State) : Quiet s (beginDpError s) :=
  needDp_quiet (beginAccess_quiet _ _ _ _ s)

theorem beginDpAbort_quiet (s : State) : Quiet s (beginDpAbort s) :=
  needDp_quiet (rawAccess_quiet _ _ _ _ _ _ s)

theorem beginApScan_quiet (s : State) : Quiet s (beginApScan s) :=
  needDp_quiet ((discardAps_quiet s).trans (scanCandidate_quiet 0 0 _))

theorem beginApRead_quiet (s : State) : Quiet s (beginApRead s) := by
  refine needAp_quiet ?_
  split
  · exact (setRspValue_quiet 0 s).trans (setStatus_quiet _ _)
  · exact apAccess_quiet .read s

theorem beginApWrite_quiet (s : State) : Quiet s (beginApWrite s) := by
  refine needAp_quiet ?_
  split
  · exact setStatus_quiet _ s
  · exact apAccess_quiet .write s

theorem beginMem_quiet (rd : Bool) (s : State) : Quiet s (beginMem rd s) := by
  refine needAp_quiet ?_
  split
  · exact (setRspCount_quiet 0 s).trans (setStatus_quiet _ _)
  · split
    · exact (setRspCount_quiet 0 s).trans (setStatus_quiet _ _)
    · exact (setWin_quiet _ s).trans (memBegin_quiet rd _)

/-- Only DP_SCAN makes calls before its first link operation: `TAP.init()` and the first run of ones (R240, log 23). -/
theorem commandBegin_quiet {i : Instr} (h : i ≠ .dpScan) (s : State) : Quiet s (commandBegin i s) := by
  cases i with
  | dpScan => exact absurd rfl h
  | dpAttachJtag => exact attachJtag_quiet s
  | detach => exact detach_quiet s
  | lowAccessRd => exact beginLowAccessRd_quiet s
  | lowAccessWr => exact beginLowAccessWr_quiet s
  | dpRead => exact beginDpRead_quiet s
  | dpWrite => exact beginDpWrite_quiet s
  | dpError => exact beginDpError_quiet s
  | dpAbort => exact beginDpAbort_quiet s
  | apScan => exact beginApScan_quiet s
  | apRead => exact beginApRead_quiet s
  | apWrite => exact beginApWrite_quiet s
  | memRead => exact beginMem_quiet true s
  | memWrite => exact beginMem_quiet false s
  | cacheInvalidate => exact cacheInvalidate_quiet s
  | _ => exact Quiet.refl s

end Sys2Proof.Machine

/-! ### Progress: the configuration stays, the records grow, the answers are used up in order -/

namespace Sys2Proof.Machine

/-- From `s` to `t` the configuration is kept, calls and moves of `fsm` are added at the head of their records (logged
latest first), and answers are taken from the head of their queues (next first). -/
structure Progress (s t : State) : Prop where
  cfg : t.cfg = s.cfg
  trace : s.trace <:+ t.trace
  fsmLog : s.fsmLog <:+ t.fsmLog
  tapIn : t.tapIn <:+ s.tapIn
  clkIn : t.clkIn <:+ s.clkIn

section
variable {s t u : State}

/-- None of the five fields differs. -/
theorem Progress.of_eq (hcfg : t.cfg = s.cfg) (htrace : t.trace = s.trace) (hfsm : t.fsmLog = s.fsmLog)
    (htap : t.tapIn = s.tapIn) (hclk : t.clkIn = s.clkIn) : Progress s t :=
  ⟨hcfg, htrace ▸ List.suffix_rfl, hfsm ▸ List.suffix_rfl, htap ▸ List.suffix_rfl, hclk ▸ List.suffix_rfl⟩

theorem Progress.refl (s : State) : Progress s s := .of_eq rfl rfl rfl rfl rfl

theorem Progress.trans (h : Progress s t) (k : Progress t u) : Progress s u :=
  ⟨k.cfg.trans h.cfg, h.trace.trans k.trace, h.fsmLog.trans k.fsmLog, k.tapIn.trans h.tapIn, k.clkIn.trans h.clkIn⟩

theorem Quiet.progress (h : Quiet s t) : Progress s t := .of_eq h.cfg h.trace h.fsmLog h.tapIn h.clkIn

/-- A new phase is no progress in the five fields. -/
theorem Progress.setStage (h : Progress s t) (g : Stage) : Progress s (t.setStage g) :=
  h.trans (.of_eq rfl rfl rfl rfl rfl)

/-- Nor is another transaction. -/
theorem Progress.setAcc (h : Progress s t) (x : Access) : Progress s (t.setAcc x) :=
  h.trans (.of_eq rfl rfl rfl rfl rfl)

/-- One call more (R73, log 4). -/
theorem Progress.logCall (h : Progress s t) (c : TapCall) : Progress s (logCall c t) :=
  h.trans ⟨rfl, List.suffix_cons _ _, List.suffix_rfl, List.suffix_rfl, List.suffix_rfl⟩

theorem Progress.logCalls (h : Progress s t) (n : Nat) (c : TapCall) : Progress s (logCalls n c t) :=
  h.trans ⟨rfl, List.suffix_append _ _, List.suffix_rfl, List.suffix_rfl, List.suffix_rfl⟩

/-- One move of `fsm` more (R141, log 4). -/
theorem Progress.moveFsm (h : Progress s t) (f : Fsm) : Progress s (moveFsm f t) :=
  h.trans ⟨rfl, List.suffix_rfl, List.suffix_cons _ _, List.suffix_rfl, List.suffix_rfl⟩

theorem Progress.moveFsmInAccess (h : Progress s t) (f : Fsm) : Progress s (moveFsmInAccess f t) := by
  unfold Machine.moveFsmInAccess
  split
  · exact h
  · exact h.moveFsm f

theorem Progress.latchFault (h : Progress s t) : Progress s (latchFault t) := h.trans (.of_eq rfl rfl rfl rfl rfl)

/-- The transport's next answer is taken (log 2). -/
theorem Progress.takeTap (h : Progress s t) {r : TapReply} {rest : List TapReply} (ht : t.tapIn = r :: rest) :
    Progress s (t.setTapIn rest) :=
  h.trans ⟨rfl, List.suffix_rfl, List.suffix_rfl, ht ▸ List.suffix_cons r rest, List.suffix_rfl⟩

/-- The clock's next answer is taken (log 3). -/
theorem Progress.takeClk (h : Progress s t) {now : Word} {rest : List Word} (hc : t.clkIn = now :: rest) :
    Progress s (t.setClkIn rest) :=
  h.trans ⟨rfl, List.suffix_rfl, List.suffix_rfl, List.suffix_rfl, hc ▸ List.suffix_cons now rest⟩

/-- A completed command. -/
theorem Progress.finish (h : Progress s t) (r : Status) : Progress s (finish r t) := h.trans (finish_quiet r t).progress

/-- A raise adds its two moves of `fsm` (R268). -/
theorem Progress.raise (h : Progress s t) (c : Condition) : Progress s (raise c t) :=
  h.trans ⟨raise_cfg t c, by simp, by rw [raise_fsmLog]; exact List.suffix_append [Fsm.idle, c.fsm] _, by simp, by simp⟩

/-- What a command does with the result of a `low_access` (R130). -/
theorem Progress.returnAccess (h : Progress s t) (v : Word) (o : AccessOutcome) : Progress s (returnAccess v o t) :=
  (h.trans (.of_eq rfl rfl rfl rfl rfl : Progress t (forgetT0 t))).trans (resume_quiet v o _).progress

theorem Progress.flushNonOk (h : Progress s t) : Progress s (flushNonOk t) := by
  unfold Machine.flushNonOk
  split
  · exact h.logCall _
  · exact h

theorem Progress.receiveAck (h : Progress s t) : Progress s (receiveAck t) := by
  unfold Machine.receiveAck
  split
  · exact h.logCall _
  · exact h

/-- The clock reading after a WAIT, in both its outcomes and where it has not come (R135, R136, log 26). -/
theorem Progress.retryOrTimeout (h : Progress s t) : Progress s (retryOrTimeout t) := by
  cases hc : t.clkIn with
  | nil =>
    have hblocked : Machine.retryOrTimeout t = t.setStage .retryClock := by simp [Machine.retryOrTimeout, hc]
    exact hblocked ▸ h.setStage _
  | cons now rest =>
    have hread : Progress s ((Machine.logCall .nowMs t).setClkIn rest) := (h.logCall _).takeClk hc
    rw [retryOrTimeout_cons hc]
    split
    · exact hread.setStage _
    · exact hread.raise _
end

/-! #### Each link operation and internal move -/

section
variable (s : State)

theorem startAccess_progress : Progress s (startAccess s) := by
  unfold startAccess
  split
  · exact (((Progress.refl s).moveFsm _).moveFsm _).returnAccess _ _
  · split <;> exact (Progress.refl s).setStage _

theorem sampleT0_progress : Progress s (sampleT0 s) := by
  cases hc : s.clkIn with
  | nil => simpa [sampleT0, hc] using Progress.refl s
  | cons now rest =>
    rw [sampleT0_eq hc]
    exact (((Progress.refl s).logCall .nowMs).takeClk hc).trans (.of_eq rfl rfl rfl rfl rfl)

theorem loadIr_progress (c : BitVec 4) : Progress s (loadIr c s) := ((Progress.refl s).logCall _).setStage _

theorem sendRequest_progress (req : Byte) : Progress s (sendRequest req s) :=
  (((Progress.refl s).moveFsmInAccess _).logCall _).setStage _

theorem shiftScan_progress (o : BitVec 35) : Progress s (shiftScan o s) := by
  unfold shiftScan
  split
  · exact ((Progress.refl s).logCall _).setStage _
  · exact (((Progress.refl s).moveFsm _).logCall _).setStage _

theorem dropResponse_progress : Progress s (dropResponse s) := by
  cases ht : s.tapIn with
  | nil => simpa [dropResponse, ht] using Progress.refl s
  | cons r rest =>
    rw [dropResponse_eq ht]
    exact ((Progress.refl s).takeTap ht).setStage _

theorem acceptOk_progress : Progress s (acceptOk s) := by
  have hmoved := (Progress.refl s).receiveAck.moveFsmInAccess .dataPhase
  unfold acceptOk
  dsimp only
  split
  · exact hmoved.setStage _
  · exact (hmoved.moveFsm _).returnAccess _ _

theorem acceptWait_progress : Progress s (acceptWait s) := by
  have hreceived := (Progress.refl s).receiveAck
  unfold acceptWait
  dsimp only
  split
  · exact hreceived.finish _
  · exact (hreceived.moveFsm _).flushNonOk.retryOrTimeout

theorem acceptFault_progress : Progress s (acceptFault s) := by
  have hreceived := (Progress.refl s).receiveAck
  unfold acceptFault
  dsimp only
  split
  · exact hreceived.finish _
  · exact ((hreceived.moveFsm _).latchFault.flushNonOk.moveFsm _).returnAccess _ _

theorem acceptInvalid_progress : Progress s (acceptInvalid s) := by
  have hreceived := (Progress.refl s).receiveAck
  unfold acceptInvalid
  dsimp only
  split
  · exact hreceived.finish _
  · exact hreceived.flushNonOk.raise _

/-- The reaction to any acknowledge (R134 to R138). -/
theorem react_progress (b : BitVec 3) : Progress s (react b s) := by
  rcases bits3_cases b with rfl | rfl | rfl | rfl | rfl | rfl | rfl | rfl
  case inr.inl => exact acceptOk_progress s
  case inr.inr.inl => exact acceptWait_progress s
  case inr.inr.inr.inr.inl => exact acceptFault_progress s
  all_goals exact acceptInvalid_progress s

theorem receiveData_progress (v : Word) (p : Bool) : Progress s (receiveData v p s) := by
  have hreceived := (Progress.refl s).logCall (.seqInPar 32)
  unfold receiveData
  dsimp only
  split
  · exact (hreceived.setAcc _).setStage _
  · split
    · exact hreceived.finish _
    · exact hreceived.raise _

theorem transmitData_progress (v : Word) : Progress s (transmitData v s) :=
  (((Progress.refl s).setAcc _).logCall _).setStage _

/-- The DebugPort of a successful scan is created without a call (R240, R241). -/
theorem scanSucceeded_quiet : Quiet s (scanSucceeded s) := by
  unfold scanSucceeded
  refine Quiet.trans ?_ (finish_quiet .ok _)
  exact ⟨rfl, rfl, rfl, rfl, rfl, rfl, rfl, rfl⟩

theorem flushLine_progress : Progress s (flushLine s) := by
  have hflushed := (Progress.refl s).logCall (.seqOut (Config.flushValue.setWidth 32) Config.flushBits)
  unfold flushLine
  dsimp only
  split
  · exact hflushed.trans (scanSucceeded_quiet _).progress
  · exact (hflushed.moveFsm _).returnAccess _ _

theorem lineResetBegin_progress : Progress s (lineResetBegin s) :=
  (((Progress.refl s).logCall _).logCalls _ _).setStage _

theorem lineResetSwitch_progress : Progress s (lineResetSwitch s) :=
  ((((Progress.refl s).logCall _).logCalls _ _).logCall _).setStage _
end

/-! #### The run of a command, and the step -/

section
variable {s t : State}

/-- One link operation or internal move, phase by phase; a phase whose answer has not come stays as it is. -/
theorem linkStep_progress (h : linkStep s = .next t) : Progress s t := by
  have of_move : ∀ {u}, linkStep s = .next u → Progress s u → Progress s t := by
    intro u hu hp
    rw [hu] at h
    cases h
    exact hp
  cases hst : s.stage with
  | idle => exact of_move (linkStep_idle hst) (.refl s)
  | start => exact of_move (linkStep_start hst) (startAccess_progress s)
  | ir => exact of_move (linkStep_ir hst) (loadIr_progress s _)
  | reloadIr => exact of_move (linkStep_reloadIr hst) (loadIr_progress s _)
  | collectIr => exact of_move (linkStep_collectIr hst) (loadIr_progress s _)
  | collect => exact of_move (linkStep_collect hst) (shiftScan_progress s _)
  | flush => exact of_move (linkStep_flush hst) (flushLine_progress s)
  | lineReset => exact of_move (linkStep_lineReset hst) (lineResetSwitch_progress s)
  | clock =>
    cases hc : s.clkIn with
    | nil => exact of_move (linkStep_clock_blocked (.inl hst) hc) (.refl s)
    | cons now rest => exact of_move (linkStep_clock hst hc) (sampleT0_progress s)
  | retryClock =>
    cases hc : s.clkIn with
    | nil => exact of_move (linkStep_clock_blocked (.inr hst) hc) (.refl s)
    | cons now rest => exact of_move (linkStep_retryClock hst hc) (Progress.refl s).retryOrTimeout
  | request =>
    cases hw : s.wire with
    | swd => exact of_move (linkStep_request_swd hst hw) (sendRequest_progress s _)
    | jtag => exact of_move (linkStep_request_jtag hst hw) (shiftScan_progress s _)
  | drain =>
    cases ht : s.tapIn with
    | nil => exact of_move (linkStep_tap_blocked (.inl hst) ht) (.refl s)
    | cons r rest => exact of_move (linkStep_drain hst ht) (dropResponse_progress s)
  | ack =>
    cases ht : s.tapIn with
    | nil => exact of_move (linkStep_tap_blocked (.inr (.inl hst)) ht) (.refl s)
    | cons r rest =>
      have htaken := (Progress.refl s).takeTap ht
      cases hw : s.wire with
      | swd => exact of_move (linkStep_ack_swd hst hw ht) (htaken.trans (react_progress _ _))
      | jtag => exact of_move (linkStep_ack_jtag hst hw ht) ((htaken.setAcc _).trans (react_progress _ _))
  | data =>
    cases hr : s.acc.rnw with
    | false => exact of_move (linkStep_data_write hst hr) (transmitData_progress s _)
    | true =>
      cases ht : s.tapIn with
      | nil => exact of_move (linkStep_tap_blocked (.inr (.inr ⟨hst, hr⟩)) ht) (.refl s)
      | cons r rest =>
        exact of_move (linkStep_data_read hst hr ht)
          (((Progress.refl s).takeTap ht).trans (receiveData_progress _ _ _))

/-- Any number of moves. -/
theorem drive_progress {n : Nat} (h : drive n s = .next t) : Progress s t := by
  induction n generalizing s with
  | zero =>
    cases h
    exact .refl _
  | succ n ih =>
    unfold drive at h
    split at h
    · next u hu => exact (linkStep_progress hu).trans (ih h)
    · cases h
    · cases h

/-- How a host command begins: DP_SCAN calls, the others are quiet. -/
theorem commandBegin_progress (i : Instr) (s : State) : Progress s (commandBegin i s) := by
  by_cases hi : i = .dpScan
  · subst hi
    exact (.of_eq rfl rfl rfl rfl rfl : Progress s (((destroyDp s).setAcc ⟨true, Config.dpIdcode, 0, 0⟩).setCont .scan))
      |>.trans (lineResetBegin_progress _)
  · exact (commandBegin_quiet hi s).progress

/-- A host command, as far as the answers at hand carry it (log 5). -/
theorem exec_command_progress {i : Instr} (hi : i.isCommand = true) (h : exec i s = .next t) : Progress s t := by
  rw [exec_command hi] at h
  unfold onIdle at h
  split at h
  · exact (commandBegin_progress i s).trans (drive_progress h)
  · cases h

/-- An act of the host is taken from its own queue and lands in the command port or in HBUF (R27, R28). -/
theorem hostWrite_progress (a : HostAction) (rest : List HostAction) (s : State) :
    Progress s (hostWrite a (s.setHostIn rest)) := by
  cases a <;> exact .of_eq rfl rfl rfl rfl rfl

/-- The step of the idle engine: nothing, a write, a command, an undefined opcode. -/
theorem step_idle_progress (hst : s.stage = .idle) (h : step s = .next t) : Progress s t := by
  cases hh : s.hostIn with
  | nil =>
    rw [step_idle_waits hst hh] at h
    cases h
    exact .refl s
  | cons a rest =>
    by_cases hcmd : ∃ op, a = .command op
    · obtain ⟨op, rfl⟩ := hcmd
      have htaken := hostWrite_progress (.command op) rest s
      cases hd : decode .cmd (op.setWidth 40) with
      | ok i =>
        rw [step_idle_command hst hh hd] at h
        exact htaken.trans (exec_command_progress (decode_command hd) h)
      | error e =>
        rw [step_idle_undefined hst hh hd] at h
        cases h
        exact htaken.trans (setStatus_quiet _ _).progress
    · rw [step_idle_write hst hh (fun op ha => hcmd ⟨op, ha⟩)] at h
      cases h
      exact hostWrite_progress a rest s

/-- Every step makes progress. -/
theorem step_progress (h : step s = .next t) : Progress s t := by
  by_cases hst : s.stage = .idle
  · exact step_idle_progress hst h
  · exact linkStep_progress (step_busy hst ▸ h)
end

end Sys2Proof.Machine

/-! ### The statements of the scope -/

namespace Sys2Proof.Machine

/-- Settles O20, clause by clause: one reading taken, a reading awaited, bits dropped, an answer awaited. -/
theorem clockReadAndBlocking : Obligations.ClockReadAndBlocking := by
  refine ⟨?reading, ?clockBlocks, ?dropped, ?tapBlocks⟩
  case reading =>
    intro s now rest hst hc
    rw [step_at hst (by decide), linkStep_clock hst hc, sampleT0_eq hc]
    rfl
  case clockBlocks =>
    intro s hst hc
    have hbusy : s.stage ≠ .idle := by rcases hst with hst | hst <;> simp [hst]
    rw [step_busy hbusy, linkStep_clock_blocked hst hc]
  case dropped =>
    intro s r rest hst ht
    rw [step_at hst (by decide), linkStep_drain hst ht, dropResponse_eq ht]
    rfl
  case tapBlocks =>
    intro s hst ht
    have hbusy : s.stage ≠ .idle := by rcases hst with hst | hst | ⟨hst, _⟩ <;> simp [hst]
    rw [step_busy hbusy, linkStep_tap_blocked hst ht]

/-- Settles O25: every step makes progress, and progress keeps the configuration. -/
theorem stepKeepsConfig : Obligations.StepKeepsConfig :=
  fun _ _ h => (step_progress h).cfg

/-- Settles O29: a step's progress, with each suffix written as what is added or taken. -/
theorem callsAppendOnly : Obligations.CallsAppendOnly := by
  intro s t h
  obtain ⟨_, ⟨calls, htrace⟩, ⟨moves, hfsm⟩, ⟨taken, htap⟩, ⟨read, hclk⟩⟩ := step_progress h
  exact ⟨⟨calls, htrace.symm⟩, ⟨moves, hfsm.symm⟩, ⟨taken, htap.symm⟩, ⟨read, hclk.symm⟩⟩

end Sys2Proof.Machine

/-! ### The engine at rest: what an idle state keeps of the invariant, and how a command begins from it -/

namespace Sys2Proof.Machine

section
variable {s t : State}

/-- While no command runs the command's position is empty. -/
theorem cont_none_of_idle (h : s.Inv) (hst : s.stage = .idle) : s.cont = .none := by
  have hp := h.phase
  unfold phaseFits at hp
  cases hc : s.cont <;> simp_all

theorem atRest_of_idle (h : s.Inv) (hst : s.stage = .idle) : AtRest s := by
  have hf := h.fsmFits
  simp only [cont_none_of_idle h hst, hst, fsmAt, reduceCtorEq, if_false] at hf
  exact ⟨h.hbufCanonical, h.absentNoCache, h.nothingWithoutDp, hf, h.fsmMoves⟩

/-- With no command under way the invariant is what holds at rest. -/
theorem inv_of_atRest (h : AtRest s) (hst : s.stage = .idle) (hc : s.cont = .none) : s.Inv where
  hbufCanonical := h.hbufCanonical
  absentNoCache := h.absentNoCache
  nothingWithoutDp := h.nothingWithoutDp
  commandHasAp := by simp [hc, Cont.namesAp]
  commandHasDp := fun hb => absurd hst hb
  phase := by simp [phaseFits, hc, hst]
  fsmFits := by simp [hc, hst, fsmAt, h.fsmIdle]
  fsmMoves := h.fsmMoves
  window := by simp [windowFits, hc]

/-- A register of the command port may change while no command runs. -/
theorem inv_setPort (h : s.Inv) (hst : s.stage = .idle) (p : HostPort) : (s.setPort p).Inv :=
  inv_of_atRest (atRest_of_eq (atRest_of_idle h hst) rfl rfl rfl rfl rfl) hst (cont_none_of_idle (s := s) h hst)

/-- A command that is refused or short-circuited before its first access writes its status alone (R265). -/
theorem setStatus_inv (h : s.Inv) (hst : s.stage = .idle) (r : Status) : (setStatus r s).Inv := inv_setPort h hst _

/-- An act of the host keeps the invariant (R27, R28). -/
theorem hostWrite_inv (h : s.Inv) (hst : s.stage = .idle) (a : HostAction) (rest : List HostAction) :
    (hostWrite a (s.setHostIn rest)).Inv := by
  have hrest : AtRest (s.setHostIn rest) := atRest_of_eq (atRest_of_idle h hst) rfl rfl rfl rfl rfl
  have hinv : (s.setHostIn rest).Inv := inv_of_atRest hrest hst (cont_none_of_idle (s := s) h hst)
  cases a with
  | hbuf i b =>
    exact inv_of_atRest { hrest with hbufCanonical := Memory.wf_write _ _ _ h.hbufCanonical } hst
      (cont_none_of_idle (s := s) h hst)
  | argAp v => exact inv_setPort hinv hst _
  | argAddr v => exact inv_setPort hinv hst _
  | argValue v => exact inv_setPort hinv hst _
  | argLen v => exact inv_setPort hinv hst _
  | command op => exact inv_setPort hinv hst _

theorem atRest_destroyDp (h : AtRest s) : AtRest (destroyDp s) where
  hbufCanonical := h.hbufCanonical
  absentNoCache := fun i _ => by simp [State.cswCache, State.tarCache]
  nothingWithoutDp := fun _ => by simp [State.apPresent]
  fsmIdle := h.fsmIdle
  fsmMoves := h.fsmMoves

theorem atRest_rawCacheEffects (h : AtRest s) (hv : s.dp.valid = true) (addr : BitVec 9) (w : Bool) (v : Word) :
    AtRest (rawCacheEffects addr w v s) := by
  unfold rawCacheEffects
  repeat' split
  · exact atRest_invalidateApCaches h
  · exact atRest_setSelCache h hv _
  · exact atRest_invalidateApCaches h
  · exact h

@[simp] theorem rawCacheEffects_valid (addr : BitVec 9) (w : Bool) (v : Word) (s : State) :
    (rawCacheEffects addr w v s).dp.valid = s.dp.valid := by
  unfold rawCacheEffects
  repeat' split
  all_goals rfl

/-! #### The window of a new transfer -/

/-- The low `k` bits of an address are zero exactly if it is a multiple of `2^k`. -/
theorem extractLow_eq_zero_iff (x : Word) (k : Nat) : x.extractLsb' 0 k = 0 ↔ x.toNat % 2 ^ k = 0 := by
  rw [← BitVec.toNat_inj, BitVec.extractLsb'_toNat]
  simp

/-- The unit of `access_size` divides address and length (R203). -/
theorem accessSize_divides (addr len : Word) :
    accessSize addr len ≠ 3 ∧ addr.toNat % unitSize (accessSize addr len) = 0 ∧
      len.toNat % unitSize (accessSize addr len) = 0 := by
  have hlow : ∀ k, (addr ||| len).extractLsb' 0 k = 0 → addr.toNat % 2 ^ k = 0 ∧ len.toNat % 2 ^ k = 0 := by
    intro k hk
    rw [BitVec.extractLsb'_or] at hk
    have hk := BitVec.or_eq_zero_iff.mp hk
    exact ⟨(extractLow_eq_zero_iff _ _).mp hk.1, (extractLow_eq_zero_iff _ _).mp hk.2⟩
  unfold accessSize
  dsimp only
  split
  · next hword => exact ⟨by decide, hlow 2 hword⟩
  · split
    · next hhalf =>
      refine ⟨by decide, hlow 1 (BitVec.eq_of_getLsbD_eq fun i hi => ?_)⟩
      obtain rfl : i = 0 := by omega
      simpa using hhalf
    · exact ⟨by decide, Nat.mod_one _, Nat.mod_one _⟩

/-- The window of R202 is that of a transfer with nothing moved yet. -/
theorem transferWindow_windowOf (s : State) :
    TransferWindow (s.setWin (windowOf s.port.argAddr s.port.argLen)) 0 := by
  obtain ⟨hsz, haddr, hlen⟩ := accessSize_divides s.port.argAddr s.port.argLen
  refine ⟨hsz, rfl, haddr, Nat.zero_le _, ?_⟩
  simp only [State.setWin_port, State.setWin_win, windowOf, BitVec.toNat_ushiftRight, Nat.shiftRight_eq_div_pow]
  exact (Nat.div_mul_cancel (Nat.dvd_of_mod_eq_zero hlen)).symm

theorem memBegin_inv (h : AtRest s) (hv : s.dp.valid = true) (hap : s.apPresent s.port.argAp = true) (rd : Bool)
    (hw : TransferWindow s 0) : (memBegin rd s).Inv := by
  unfold memBegin ensureSelect
  split
  · exact memCsw_inv h hv hap rd hw
  · exact beginAccess_inv h hv (by simp) (by simp) (fun _ => hap)
      (windowFits_of (p := .select) hw (by simp [MemPos.inChunk]))

/-! #### How each command begins -/

theorem needDp_inv (h : s.Inv) (hst : s.stage = .idle) {f : State → State}
    (hf : s.dp.valid = true → (f s).Inv) : (needDp f s).Inv := by
  unfold needDp
  split
  · next hv => exact hf hv
  · exact setStatus_inv h hst _

theorem needAp_inv (h : s.Inv) (hst : s.stage = .idle) {f : State → State}
    (hf : s.dp.valid = true → s.apPresent s.port.argAp = true → (f s).Inv) : (needAp f s).Inv := by
  refine needDp_inv h hst fun hv => ?_
  split
  · next hap => exact hf hv hap
  · exact setStatus_inv h hst _

/-- The commands of one access, from their cache effects to the call of `low_access` (R143, R160, R162, R164). -/
theorem rawAccess_inv (h : AtRest s) (hv : s.dp.valid = true) (rnw : Bool) (addr : BitVec 9) (wval v : Word) (w : Bool)
    {k : Cont} (hn : k ≠ .none) (hk : k ≠ .scan) (ha : k.namesAp = false) (hm : k.isMem = false) :
    (beginAccess rnw addr wval k (rawCacheEffects addr w v s)).Inv := by
  refine beginAccess_inv (atRest_rawCacheEffects h hv addr w v) (by simpa using hv) hn hk (by simp [ha]) ?_
  unfold windowFits
  cases k <;> simp_all [Cont.isMem]

/-- DP_SCAN destroys the DebugPort and stands before the switch sequence (R240). -/
theorem beginDpScan_inv (h : AtRest s) : (beginDpScan s).Inv where
  hbufCanonical := h.hbufCanonical
  absentNoCache := (atRest_destroyDp h).absentNoCache
  nothingWithoutDp := (atRest_destroyDp h).nothingWithoutDp
  commandHasAp := by simp [beginDpScan, lineResetBegin, Cont.namesAp]
  commandHasDp := by simp [beginDpScan, lineResetBegin]
  phase := phaseFits_scan rfl rfl (.inl rfl)
  fsmFits := by simp [beginDpScan, lineResetBegin, h.fsmIdle]
  fsmMoves := h.fsmMoves
  window := trivial

/-- The DebugPort that DP_ATTACH_JTAG creates has no AccessPort yet (R247). -/
theorem attachJtag_inv (h : s.Inv) (hst : s.stage = .idle) : (attachJtag s).Inv := by
  have hgone := atRest_destroyDp (atRest_of_idle h hst)
  refine inv_of_atRest ?_ hst (cont_none_of_idle (s := s) h hst)
  exact ⟨hgone.hbufCanonical, hgone.absentNoCache, fun hv => by simp [attachJtag] at hv, hgone.fsmIdle, hgone.fsmMoves⟩

theorem detach_inv (h : s.Inv) (hst : s.stage = .idle) : (detach s).Inv :=
  inv_of_atRest (atRest_of_eq (atRest_destroyDp (atRest_of_idle h hst)) rfl rfl rfl rfl rfl) hst
    (cont_none_of_idle (s := s) h hst)

theorem cacheInvalidate_inv (h : s.Inv) (hst : s.stage = .idle) : (cacheInvalidate s).Inv := by
  have hdropped := atRest_invalidateApCaches (atRest_of_idle h hst)
  refine inv_of_atRest ?_ hst (cont_none_of_idle (s := s) h hst)
  refine ⟨hdropped.hbufCanonical, hdropped.absentNoCache, fun hv => ?_, hdropped.fsmIdle, hdropped.fsmMoves⟩
  exact ⟨(hdropped.nothingWithoutDp hv).1, rfl, (hdropped.nothingWithoutDp hv).2.2⟩

theorem beginLowAccessRd_inv (h : s.Inv) (hst : s.stage = .idle) : (beginLowAccessRd s).Inv :=
  needDp_inv h hst fun hv => rawAccess_inv (atRest_of_idle h hst) hv _ _ _ _ _ (by simp) (by simp) rfl rfl

theorem beginLowAccessWr_inv (h : s.Inv) (hst : s.stage = .idle) : (beginLowAccessWr s).Inv :=
  needDp_inv h hst fun hv => rawAccess_inv (atRest_of_idle h hst) hv _ _ _ _ _ (by simp) (by simp) rfl rfl

theorem beginDpWrite_inv (h : s.Inv) (hst : s.stage = .idle) : (beginDpWrite s).Inv :=
  needDp_inv h hst fun hv => rawAccess_inv (atRest_of_idle h hst) hv _ _ _ _ _ (by simp) (by simp) rfl rfl

theorem beginDpAbort_inv (h : s.Inv) (hst : s.stage = .idle) : (beginDpAbort s).Inv :=
  needDp_inv h hst fun hv => rawAccess_inv (atRest_of_idle h hst) hv _ _ _ _ _ (by simp) (by simp) rfl rfl

theorem beginDpRead_inv (h : s.Inv) (hst : s.stage = .idle) : (beginDpRead s).Inv := by
  refine needDp_inv h hst fun hv => ?_
  split
  · exact rawAccess_inv (atRest_of_idle h hst) hv _ _ _ _ _ (by simp) (by simp) rfl rfl
  · exact rawAccess_inv (atRest_of_idle h hst) hv _ _ _ _ _ (by simp) (by simp) rfl rfl

theorem beginDpError_inv (h : s.Inv) (hst : s.stage = .idle) : (beginDpError s).Inv :=
  needDp_inv h hst fun hv =>
    beginAccess_inv (atRest_of_idle h hst) hv (by simp) (by simp) (by simp [Cont.namesAp]) trivial

theorem beginApScan_inv (h : s.Inv) (hst : s.stage = .idle) : (beginApScan s).Inv :=
  needDp_inv h hst fun hv => scanCandidate_inv (atRest_discardAps (atRest_of_idle h hst) hv) hv 0 0

theorem beginApRead_inv (h : s.Inv) (hst : s.stage = .idle) : (beginApRead s).Inv := by
  refine needAp_inv h hst fun hv hap => ?_
  split
  · exact inv_setPort h hst { s.port with rspValue := 0, rspStatus := Status.ok.code }
  · exact apAccess_inv (atRest_of_idle h hst) hv .read fun _ => hap

theorem beginApWrite_inv (h : s.Inv) (hst : s.stage = .idle) : (beginApWrite s).Inv := by
  refine needAp_inv h hst fun hv hap => ?_
  split
  · exact setStatus_inv h hst _
  · exact apAccess_inv (atRest_of_idle h hst) hv .write fun _ => hap

theorem beginMem_inv (h : s.Inv) (hst : s.stage = .idle) (rd : Bool) : (beginMem rd s).Inv := by
  refine needAp_inv h hst fun hv hap => ?_
  split
  · exact inv_setPort h hst { s.port with rspCount := 0, rspStatus := Status.ok.code }
  · split
    · exact inv_setPort h hst { s.port with rspCount := 0, rspStatus := Status.memoryFault.code }
    · have hrest : AtRest (s.setWin (windowOf s.port.argAddr s.port.argLen)) :=
        atRest_of_eq (atRest_of_idle h hst) rfl rfl rfl rfl rfl
      exact memBegin_inv hrest hv hap rd (transferWindow_windowOf s)

/-- Every command begins in a state that meets the invariant. -/
theorem commandBegin_inv (i : Instr) (h : s.Inv) (hst : s.stage = .idle) : (commandBegin i s).Inv := by
  cases i with
  | dpScan => exact beginDpScan_inv (atRest_of_idle h hst)
  | dpAttachJtag => exact attachJtag_inv h hst
  | detach => exact detach_inv h hst
  | lowAccessRd => exact beginLowAccessRd_inv h hst
  | lowAccessWr => exact beginLowAccessWr_inv h hst
  | dpRead => exact beginDpRead_inv h hst
  | dpWrite => exact beginDpWrite_inv h hst
  | dpError => exact beginDpError_inv h hst
  | dpAbort => exact beginDpAbort_inv h hst
  | apScan => exact beginApScan_inv h hst
  | apRead => exact beginApRead_inv h hst
  | apWrite => exact beginApWrite_inv h hst
  | memRead => exact beginMem_inv h hst true
  | memWrite => exact beginMem_inv h hst false
  | cacheInvalidate => exact cacheInvalidate_inv h hst
  | _ => exact h

/-! #### The run of a command, and the step -/

/-- What each move of a command under way keeps, a run keeps. -/
theorem drive_induction {P : State → Prop}
    (hmove : ∀ u v, P u → u.stage ≠ .idle → linkStep u = .next v → P v) {n : Nat} (hs : P s)
    (h : drive n s = .next t) : P t := by
  induction n generalizing s with
  | zero =>
    cases h
    exact hs
  | succ n ih =>
    by_cases hst : s.stage = .idle
    · rw [drive_idle hst] at h
      cases h
      exact hs
    · unfold drive at h
      split at h
      · next u hu => exact ih (hmove _ _ hs hst hu) h
      · cases h
      · cases h

/-- A host command that has a next state was taken while no command ran, and its run led there. -/
theorem exec_command_run {i : Instr} (hi : i.isCommand = true) (h : exec i s = .next t) :
    s.stage = .idle ∧ launch (commandBegin i s) = .next t := by
  rw [exec_command hi] at h
  unfold onIdle at h
  split at h
  · next hst => exact ⟨hst, h⟩
  · cases h

theorem exec_command_inv {i : Instr} (hi : i.isCommand = true) (hs : s.Inv) (h : exec i s = .next t) : t.Inv := by
  obtain ⟨hst, hrun⟩ := exec_command_run hi h
  exact drive_induction (fun _ _ hu _ hm => linkStep_inv hu hm) (commandBegin_inv i hs hst) hrun

/-- What an idle step can do: wait, take a write, run a command, refuse an opcode (R27, R108). -/
theorem step_idle_cases (hst : s.stage = .idle) (h : step s = .next t) :
    s.hostIn = [] ∧ t = s ∨
    (∃ a rest, s.hostIn = a :: rest ∧ (∀ op, a ≠ .command op) ∧ t = hostWrite a (s.setHostIn rest)) ∨
    (∃ op rest i, s.hostIn = .command op :: rest ∧ decode .cmd (op.setWidth 40) = .ok i ∧
      exec i (hostWrite (.command op) (s.setHostIn rest)) = .next t) ∨
    ∃ op rest, s.hostIn = .command op :: rest ∧
      t = setStatus .badCmd (hostWrite (.command op) (s.setHostIn rest)) := by
  cases hh : s.hostIn with
  | nil =>
    rw [step_idle_waits hst hh] at h
    cases h
    exact .inl ⟨rfl, rfl⟩
  | cons a rest =>
    by_cases hcmd : ∃ op, a = .command op
    · obtain ⟨op, rfl⟩ := hcmd
      cases hd : decode .cmd (op.setWidth 40) with
      | ok i =>
        rw [step_idle_command hst hh hd] at h
        exact .inr (.inr (.inl ⟨op, rest, i, rfl, hd, h⟩))
      | error e =>
        rw [step_idle_undefined hst hh hd] at h
        cases h
        exact .inr (.inr (.inr ⟨op, rest, rfl, rfl⟩))
    · have ha : ∀ op, a ≠ .command op := fun op ha => hcmd ⟨op, ha⟩
      rw [step_idle_write hst hh ha] at h
      cases h
      exact .inr (.inl ⟨a, rest, rfl, ha, rfl⟩)

theorem step_inv (hs : s.Inv) (h : step s = .next t) : t.Inv := by
  by_cases hst : s.stage = .idle
  · obtain ⟨-, rfl⟩ | ⟨a, rest, -, -, rfl⟩ | ⟨op, rest, i, -, hd, hx⟩ | ⟨op, rest, -, rfl⟩ := step_idle_cases hst h
    · exact hs
    · exact hostWrite_inv hs hst a rest
    · exact exec_command_inv (decode_command hd) (hostWrite_inv hs hst (.command op) rest) hx
    · exact setStatus_inv (hostWrite_inv hs hst (.command op) rest) hst _
  · exact linkStep_inv hs (step_busy hst ▸ h)
end

/-- Settles O23: a busy step is one move, an idle one an act of the host or the run of a command; each keeps the
invariant. -/
theorem stepKeepsInvariant : Obligations.StepKeepsInvariant :=
  fun _ _ hs h => step_inv hs h

end Sys2Proof.Machine

/-! ### Power-on reset, the host buffer and the AccessPort records -/

namespace Sys2Proof.Machine

/-- The canonical form of HBUF as a property of all pairs of entries (log 12). -/
theorem Memory.wf_iff_pairwise (m : List Host.Cell) :
    Memory.wf m = true ↔ m.Pairwise (fun c d => c.1 < d.1) ∧ ∀ c ∈ m, c.2 ≠ 0 := by
  induction m with
  | nil => simp [Memory.wf]
  | cons c m ih =>
    constructor
    · intro h
      obtain ⟨hc, -, hm⟩ := (Memory.wf_cons c m).mp h
      obtain ⟨hsorted, hnonzero⟩ := ih.mp hm
      exact ⟨List.pairwise_cons.mpr ⟨Memory.wf_lower c m h, hsorted⟩, List.forall_mem_cons.mpr ⟨hc, hnonzero⟩⟩
    · rintro ⟨hsorted, hnonzero⟩
      obtain ⟨hlower, hsorted⟩ := List.pairwise_cons.mp hsorted
      obtain ⟨hc, hnonzero⟩ := List.forall_mem_cons.mp hnonzero
      exact Memory.wf_of_lower c m hc hlower (ih.mpr ⟨hsorted, hnonzero⟩)

@[simp] theorem ap_reset (i : Byte) : State.reset.ap i = ⟨false, 0, none, none⟩ := ApTable.get_replicate i _

theorem atRest_reset : AtRest State.reset where
  hbufCanonical := rfl
  absentNoCache := by simp [State.cswCache, State.tarCache]
  nothingWithoutDp := fun _ => ⟨rfl, rfl, by simp [State.apPresent]⟩
  fsmIdle := rfl
  fsmMoves := ⟨rfl, rfl⟩

/-- Without a DebugPort each of the eleven commands of R265 writes NO_DP and does nothing else. -/
theorem commandBegin_noDp {i : Instr} (hi : i ∈ commandsNeedingDp) {s : State} (hv : s.dp.valid = false) :
    commandBegin i s = setStatus .noDp s := by
  have hneed : ∀ f : State → State, needDp f s = setStatus .noDp s := fun f => by simp [needDp, hv]
  simp only [commandsNeedingDp, List.mem_cons, List.not_mem_nil, or_false] at hi
  rcases hi with rfl | rfl | rfl | rfl | rfl | rfl | rfl | rfl | rfl | rfl | rfl <;>
    simp only [commandBegin, beginLowAccessRd, beginLowAccessWr, beginDpRead, beginDpWrite, beginDpError, beginDpAbort,
      beginApScan, beginApRead, beginApWrite, beginMem, needAp, hneed]

/-- A host command that begins and ends at once (R265, R184, R247, R252). -/
theorem exec_command_idle {i : Instr} (hi : i.isCommand = true) {s : State} (hst : s.stage = .idle)
    (hdone : (commandBegin i s).stage = .idle) : exec i s = .next (commandBegin i s) := by
  rw [exec_command hi, onIdle_eq _ hst, launch_idle hdone]

theorem isCommand_of_needsDp {i : Instr} (hi : i ∈ commandsNeedingDp) : i.isCommand = true := by
  revert i
  decide

theorem exec_noDp {i : Instr} (hi : i ∈ commandsNeedingDp) {s : State} (hst : s.stage = .idle)
    (hv : s.dp.valid = false) : exec i s = .next (setStatus .noDp s) := by
  have hbegin := commandBegin_noDp hi hv
  rw [exec_command_idle (isCommand_of_needsDp hi) hst (by simp [hbegin, hst]), hbegin]

/-- Settles O22: reset is at rest with no command, and the canonical form is sortedness with no zero entry. -/
theorem resetMeetsInvariant : Obligations.ResetMeetsInvariant :=
  ⟨inv_of_atRest atRest_reset rfl rfl, Memory.wf_iff_pairwise⟩

/-- Settles O21: the fields by evaluation, the AP records by the table's law, the eleven commands by `exec_noDp`. -/
theorem resetValues : Obligations.ResetValues := by
  refine ⟨rfl, rfl, rfl, ?records, rfl, rfl, rfl, rfl, rfl, rfl, rfl, rfl, rfl, rfl, rfl, fun _ => rfl, ?commands⟩
  case records =>
    intro i
    simp [State.apPresent, State.cswCache, State.tarCache]
  case commands =>
    rintro i s hi rfl
    exact exec_noDp hi rfl rfl

/-- Settles O12: the laws of the AP table, and the cases of R165 in the order of the model. -/
theorem rawCacheEffects_spec : Obligations.RawCacheEffects := by
  refine ⟨fun t f g i k => ⟨ApTable.get_map t i f, ApTable.get_tabulate i g, ?_⟩, fun s i => ⟨?_, rfl, rfl, rfl⟩,
    fun addr write value s => rfl⟩
  · rw [ApTable.get_change]
    simp only [eq_comm]
  · exact (Vector.getElem?_eq_getElem (ApTable.bound i)).symm

/-! ### The unit of confirmed bytes, and what a raise leaves -/

/-- `u = 2^win.sz` (R202). -/
theorem unitBytes_eq_two_pow (sz : BitVec 2) : unitBytes sz = 2 ^ sz.toNat := by
  revert sz
  decide

section
variable (s : State) (c : Condition)

/-- After a memory command the window is undefined (R24, log 13). -/
@[simp] theorem finish_win (r : Status) : (finish r s).win = if s.cont.isMem then (forgetWin s).win else s.win := by
  rw [finish_eq]
  split <;> rfl

@[simp] theorem finish_nonce (r : Status) : (finish r s).nonce = if s.cont.isMem then s.nonce + 1 else s.nonce := by
  rw [finish_eq]
  split <;> rfl

theorem raise_win : (raise c s).win = if s.cont.isMem then
    ⟨Config.freeWinSz (s.nonce + 1), Config.freeWinInc (s.nonce + 1), Config.freeWinA (s.nonce + 1),
      Config.freeWinDone (s.nonce + 1), Config.freeWinUnits (s.nonce + 1)⟩ else s.win := by
  rw [raise, finish_win, countOnRaise_eq]
  rfl

theorem raise_nonce : (raise c s).nonce = if s.cont.isMem then s.nonce + 2 else s.nonce + 1 := by
  rw [raise, finish_nonce, countOnRaise_eq]
  rfl

/-- A raise, field by field (R268). -/
theorem raise_eq_afterRaise : raise c s = s.afterRaise c := by
  apply State.ext
  case win => exact raise_win s c
  case nonce => exact raise_nonce s c
  case port => simp [State.afterRaise, confirmedBytes, unitBytes_eq_two_pow]
  case aps => exact raise_aps s c
  all_goals simp [State.afterRaise]
end

/-- Settles O30: the fields of a raise, and the state and number of each condition. -/
theorem raiseEffects : Obligations.RaiseEffects :=
  ⟨fun c s => raise_eq_afterRaise s c, rfl, rfl, rfl⟩

/-! ### The commands that make no call -/

/-- The AccessPort records once the DebugPort is destroyed (R252, log 13). -/
theorem destroyDp_eq (s : State) : destroyDp s =
    { s with dp := ⟨false, Config.freeIdcode s.nonce, false, none, Config.freeVariant s.nonce⟩,
             aps := apsGone s.nonce, nonce := s.nonce + 1 } := by
  apply State.ext <;> simp [apsGone]

/-- Settles O42: each of the three commands is complete where it begins. -/
theorem wireSilentCommands : Obligations.WireSilentCommands := by
  intro s hst
  refine ⟨?attach, ?detach, ?invalidate⟩
  case attach =>
    rw [exec_command_idle (i := .dpAttachJtag) rfl hst hst]
    simp only [commandBegin, attachJtag, destroyDp_eq]
    rfl
  case detach =>
    rw [exec_command_idle (i := .detach) rfl hst hst]
    simp only [commandBegin, detach, destroyDp_eq]
    rfl
  case invalidate =>
    rw [exec_command_idle (i := .cacheInvalidate) rfl hst hst]
    rfl

/-! ### The host's writes, the begin of an access -/

/-- Settles O15: the host's next act, by its kind. -/
theorem hostWritesTaken : Obligations.HostWritesTaken := by
  intro s hst
  refine ⟨step_idle_waits hst, fun v rest hh => step_idle_write hst hh nofun,
    fun v rest hh => step_idle_write hst hh nofun, fun v rest hh => step_idle_write hst hh nofun,
    fun v rest hh => step_idle_write hst hh nofun, fun i b rest hh => ⟨_, step_idle_write hst hh nofun, ?same, ?other⟩⟩
  case same => exact Memory.read_write_same _ _ _
  case other => exact fun j hj => Memory.read_write_other _ _ _ _ (Ne.symm hj)

/-- Settles O19: the short-circuit test is the first move of an access, and its two outcomes. -/
theorem shortCircuit : Obligations.ShortCircuit := by
  intro s hst
  rw [step_at hst (by decide), linkStep_start hst]
  refine ⟨fun hskip => ?_, fun hgo => ?_⟩
  · rw [startAccess_skip hskip]
    rfl
  · have hgo' : ¬ (isAp s.acc.addr = true ∧ s.dp.fault = true) := hgo
    rw [startAccess, if_neg hgo']
    cases s.wire <;> rfl

end Sys2Proof.Machine

/-! ### The word that stands next at each phase, and the instruction a step runs on it -/

namespace Sys2Proof.Machine

section
variable {s u : State}

/-- A step runs what the word standing next decodes to. -/
theorem step_word {f : Format} {w : BitVec 40} {i : Instr} (hf : fetch s = .word f w u) (hd : decode f w = .ok i) :
    step s = exec i u := by
  simp [step, hf, hd]

theorem fetch_request_swd (h : s.stage = .request) (hw : s.wire = .swd) :
    fetch s = .word .swdReq (s.acc.request.setWidth 40) s := by
  simp [fetch, fetchRequest, h, hw]

theorem fetch_request_jtag (h : s.stage = .request) (hw : s.wire = .jtag) :
    fetch s = .word (.jtagDr (isAp s.acc.addr)) (s.acc.scanWord.setWidth 40) s := by
  simp [fetch, fetchRequest, h, hw]

theorem fetch_ir (h : s.stage = .ir ∨ s.stage = .reloadIr) :
    fetch s = .word .jtagIr ((irCode s.acc.addr).setWidth 40) s := by
  rcases h with h | h <;> simp [fetch, h]

/-- The instruction register before a collecting scan is that of DPACC (log 21). -/
theorem fetch_collectIr (h : s.stage = .collectIr) : fetch s = .word .jtagIr 0b1010 s := by
  rw [fetch, h]
  rfl

/-- The collecting scan reads RDBUFF (log 21). -/
theorem fetch_collect (h : s.stage = .collect) : fetch s = .word (.jtagDr false) 0x7 s := by
  have hword : collectWord.setWidth 40 = 0x7 := by decide
  rw [fetch, h]
  simp only [hword]

theorem fetch_ack_swd {r : TapReply} {rest : List TapReply} (h : s.stage = .ack) (hw : s.wire = .swd)
    (ht : s.tapIn = r :: rest) : fetch s = .word .ack (r.ack.setWidth 40) (s.setTapIn rest) := by
  have hw' : (s.setTapIn rest).wire = .swd := hw
  simp only [fetch, fetchAck, h, ht, hw', TapReply.ack]

theorem fetch_ack_jtag {r : TapReply} {rest : List TapReply} (h : s.stage = .ack) (hw : s.wire = .jtag)
    (ht : s.tapIn = r :: rest) :
    fetch s = .word .ack ((jtagAck s.cfg r.ack).setWidth 40)
      ((s.setTapIn rest).setAcc { s.acc with value := r.scanData }) := by
  have hw' : (s.setTapIn rest).wire = .jtag := hw
  simp only [fetch, fetchAck, h, ht, hw', TapReply.ack, TapReply.scanData, State.setTapIn_cfg, State.setTapIn_acc]

theorem fetch_data_read {r : TapReply} {rest : List TapReply} (h : s.stage = .data) (hr : s.acc.rnw = true)
    (ht : s.tapIn = r :: rest) : fetch s = .word .swdData (r.dataWord.setWidth 40) (s.setTapIn rest) := by
  simp [fetch, fetchData, h, hr, ht]

theorem fetch_data_write (h : s.stage = .data) (hr : s.acc.rnw = false) :
    fetch s = .word .swdData ((dataPhaseWord s.acc.wval (evenParity s.acc.wval)).setWidth 40) s := by
  simp [fetch, fetchData, h, hr]

theorem fetch_flush (h : s.stage = .flush) : fetch s = .word .swdFlush 0x00 s := by
  rw [fetch, h]
  rfl

theorem fetch_lineReset (h : s.stage = .lineReset) : fetch s = .word .lineReset 0xE79E s := by
  rw [fetch, h]
  rfl

/-- A pattern that is none of the three codes is one of the five invalid rows (R93). -/
theorem ackInstr_invalid {b : BitVec 3} (h : b ∉ [Config.ackOk, Config.ackWait, Config.ackFault]) :
    ackInstr b ∈ [Instr.ackInvalid0, .ackInvalid3, .ackInvalid5, .ackInvalid6, .ackInvalid7] := by
  revert b
  decide

/-- On JTAG the codes of the configuration say which acknowledge runs, in the order WAIT, FAULT, OK (R99, R133). -/
theorem step_ack_jtag_codes {r : TapReply} {rest : List TapReply} (h : s.stage = .ack) (hw : s.wire = .jtag)
    (ht : s.tapIn = r :: rest) :
    let t := (s.setTapIn rest).setAcc { s.acc with value := r.scanData }
    if r.ack = s.cfg.jtagAckWait then step s = exec .ackWait t
    else if r.ack = s.cfg.jtagAckFault then step s = exec .ackFault t
    else if r.ack = s.cfg.jtagAckOk then step s = exec .ackOk t
    else ∃ i ∈ [Instr.ackInvalid0, .ackInvalid3, .ackInvalid5, .ackInvalid6, .ackInvalid7], step s = exec i t := by
  intro t
  have hstep : step s = exec (ackInstr (jtagAck s.cfg r.ack)) t := step_word (fetch_ack_jtag h hw ht) (decode_ack _)
  rcases jtagAck_cases s.cfg r.ack with ⟨hwait, hrow⟩ | ⟨hwait, hfault, hrow⟩ | ⟨hwait, hfault, hok, hrow⟩ |
    ⟨hwait, hfault, hok, hrow⟩
  · rw [if_pos hwait, hstep, hrow]
    rfl
  · rw [if_neg hwait, if_pos hfault, hstep, hrow]
    rfl
  · rw [if_neg hwait, if_neg hfault, if_pos hok, hstep, hrow]
    rfl
  · rw [if_neg hwait, if_neg hfault, if_neg hok]
    exact ⟨_, ackInstr_invalid hrow, hstep⟩

/-- The link of an access is that of the DebugPort, of DP_SCAN's inline read SWD (R130, R240). -/
theorem wire_eq (s : State) : s.wire = if s.cont = .scan then .swd else s.dp.variant := by
  split
  · next hc => simp [State.wire, hc]
  · next hc => exact wire_of_not_scan hc
end

/-- Settles O14, clause by clause: what stands next at the phase, and that a step runs it. -/
theorem stepRunsDecoded : Obligations.StepRunsDecoded := by
  refine ⟨?command, ?requestSwd, ?requestJtag, ?ir, ?collectIr, ?collect, ?ackSwd, ?ackJtag, ?codes, wire_eq,
    ?dataRead, ?dataWrite, ?flush, ?lineReset⟩
  case command => exact fun s op rest i hst hh hd => step_idle_command hst hh hd
  case requestSwd => exact fun s i hst hw hd => step_word (fetch_request_swd hst hw) hd
  case requestJtag => exact fun s i hst hw hd => step_word (fetch_request_jtag hst hw) hd
  case ir => exact fun s i hst hd => step_word (fetch_ir hst) hd
  case collectIr => exact fun s i hst hd => step_word (fetch_collectIr hst) hd
  case collect => exact fun s i hst hd => step_word (fetch_collect hst) hd
  case ackSwd => exact fun s r rest i hst hw ht hd => step_word (fetch_ack_swd hst hw ht) hd
  case ackJtag => exact fun s r rest i hst hw ht hd => step_word (fetch_ack_jtag hst hw ht) hd
  case codes => exact fun s r rest hst hw ht => step_ack_jtag_codes hst hw ht
  case dataRead => exact fun s r rest i hst hr ht hd => step_word (fetch_data_read hst hr ht) hd
  case dataWrite => exact fun s i hst hr hd => step_word (fetch_data_write hst hr) hd
  case flush => exact fun s i hst hd => step_word (fetch_flush hst) hd
  case lineReset => exact fun s i hst hd => step_word (fetch_lineReset hst) hd

end Sys2Proof.Machine

/-! ### Between its accesses a running command keeps the latch, the link, the operand registers and what command it is -/

namespace Sys2Proof.Machine

/-- The registers of the command port that the host writes (R27). -/
def HostPort.operands (p : HostPort) : Byte × Byte × Word × Word × Word :=
  (p.cmd, p.argAp, p.argAddr, p.argValue, p.argLen)

/-- The command a position belongs to, named by one of its positions; the two memory commands have their positions in
common. -/
def Cont.command : Cont → Cont
  | .none => .none
  | .scan => .scan
  | .lowAccess => .lowAccess
  | .dpReadFirst | .dpRead => .dpRead
  | .dpWrite => .dpWrite
  | .dpAbort => .dpAbort
  | .errorRead | .errorAbort _ => .errorRead
  | .ap .read _ => .ap .read .select
  | .ap .write _ => .ap .write .select
  | .ap (.scan _ _) _ => .ap (.scan 0 0) .select
  | .mem _ _ => .mem true .select

theorem Cont.command_eq_scan {k : Cont} : k.command = .scan ↔ k = .scan := by
  cases k with
  | ap u p => cases u <;> simp [Cont.command]
  | _ => simp [Cont.command]

/-- All accesses of an `ap_access` belong to one command. -/
theorem Cont.command_ap (u : ApUse) (p : ApPos) : (Cont.ap u p).command = (Cont.ap u .select).command := by
  cases u <;> rfl

/-- The latch, the link and the operand registers are as they were. -/
structure Kept (s t : State) : Prop where
  latch : t.dp.fault = s.dp.fault
  link : t.dp.variant = s.dp.variant
  operands : t.port.operands = s.port.operands

/-- From `s` command `c` goes on to its end or to its next access. -/
structure Between (c : Cont) (s t : State) : Prop extends Kept s t where
  next : t.stage = .idle ∨ t.stage = .start ∧ t.cont.command = c

section
variable {c : Cont} {s t u : State}

theorem Kept.refl (s : State) : Kept s s := ⟨rfl, rfl, rfl⟩

theorem Kept.trans (h : Kept s u) (k : Kept u t) : Kept s t :=
  ⟨k.latch.trans h.latch, k.link.trans h.link, k.operands.trans h.operands⟩

theorem Kept.between (h : Kept s u) (k : Between c u t) : Between c s t :=
  ⟨h.trans k.toKept, k.next⟩

theorem setRspValue_kept (v : Word) (s : State) : Kept s (setRspValue v s) := ⟨rfl, rfl, rfl⟩

theorem setRspCount_kept (v : Word) (s : State) : Kept s (setRspCount v s) := ⟨rfl, rfl, rfl⟩

theorem setStatus_kept (r : Status) (s : State) : Kept s (setStatus r s) := ⟨rfl, rfl, rfl⟩

theorem setTarCache_kept (i : Byte) (v : Option Word) (s : State) : Kept s (setTarCache i v s) := ⟨rfl, rfl, rfl⟩

theorem setCswCache_kept (i : Byte) (v : Option Word) (s : State) : Kept s (setCswCache i v s) := ⟨rfl, rfl, rfl⟩

theorem selectWritten_kept (i : Byte) (bank : BitVec 4) (o : AccessOutcome) (s : State) :
    Kept s (selectWritten i bank o s) := ⟨rfl, rfl, rfl⟩

theorem invalidateApCaches_kept (s : State) : Kept s (invalidateApCaches s) := ⟨rfl, rfl, rfl⟩

theorem discardAps_kept (s : State) : Kept s (discardAps s) := ⟨rfl, rfl, rfl⟩

theorem scanFound_kept (i n : Nat) (idr : Word) (s : State) : Kept s (scanFound i n idr s) := ⟨rfl, rfl, rfl⟩

theorem storeUnit_kept (v : Word) (s : State) : Kept s (storeUnit v s) := ⟨rfl, rfl, rfl⟩

theorem advanceWin_kept (s : State) : Kept s (advanceWin s) := ⟨rfl, rfl, rfl⟩

theorem setWin_kept (w : Window) (s : State) : Kept s (s.setWin w) := ⟨rfl, rfl, rfl⟩

theorem finish_between (r : Status) (s : State) : Between c s (finish r s) :=
  ⟨⟨by simp, by simp, by simp [HostPort.operands]⟩, .inl rfl⟩

theorem beginAccess_between {rnw : Bool} {addr : BitVec 9} {wval : Word} {k : Cont} (hk : k.command = c) (s : State) :
    Between c s (beginAccess rnw addr wval k s) :=
  ⟨⟨rfl, rfl, rfl⟩, .inr ⟨rfl, hk⟩⟩

theorem ensureSelect_between {i : Byte} {bank : BitVec 4} {hit : State → State} {k : Cont} (hk : k.command = c)
    (h : Between c s (hit s)) : Between c s (ensureSelect i bank hit k s) := by
  unfold ensureSelect
  split
  · exact h
  · exact beginAccess_between hk s

theorem apIssue_between (u : ApUse) (s : State) : Between (Cont.ap u .select).command s (apIssue u s) := by
  cases u <;> exact beginAccess_between (by rfl) s

theorem apAccess_between (u : ApUse) (s : State) : Between (Cont.ap u .select).command s (apAccess u s) :=
  ensureSelect_between (by rfl) (apIssue_between u s)

theorem scanDone_between (n : Nat) (s : State) : Between c s (scanDone n s) :=
  (setRspCount_kept _ s).between (finish_between .ok _)

theorem scanCandidate_between (i n : Nat) (s : State) :
    Between (Cont.ap (.scan 0 0) .select) s (scanCandidate i n s) := by
  unfold scanCandidate
  split
  · exact scanDone_between n s
  · split
    · exact scanDone_between n s
    · exact apAccess_between (.scan i n) s

theorem scanNext_between (i n : Nat) (idr : Word) (s : State) :
    Between (Cont.ap (.scan 0 0) .select) s (scanNext i n idr s) := by
  unfold scanNext
  split
  · exact (scanFound_kept i n idr s).between (scanCandidate_between (i + 1) (n + 1) _)
  · split
    · exact scanDone_between n s
    · exact scanCandidate_between (i + 1) n s

theorem apCacheEffects_kept (i reg : Byte) (w : Bool) (v : Word) (o : AccessOutcome) (s : State) :
    Kept s (apCacheEffects i reg w v o s) := by
  unfold apCacheEffects
  repeat' split
  all_goals exact ⟨rfl, rfl, rfl⟩

theorem apDone_between (u : ApUse) (v : Word) (o : AccessOutcome) (s : State) :
    Between (Cont.ap u .select).command s (apDone u v o s) := by
  cases u with
  | read =>
    exact ((apCacheEffects_kept _ _ _ _ _ s).trans (setRspValue_kept v _)).between (finish_between .ok _)
  | write => exact (apCacheEffects_kept _ _ _ _ _ s).between (finish_between .ok _)
  | scan i n => exact scanNext_between i n v s

theorem apResume_between (u : ApUse) (p : ApPos) (v : Word) (o : AccessOutcome) (s : State) :
    Between (Cont.ap u .select).command s (apResume u p v o s) := by
  cases p with
  | select =>
    simp only [apResume]
    split
    · exact (selectWritten_kept _ _ o s).between (apIssue_between u _)
    · exact (selectWritten_kept _ _ o s).between (apDone_between u 0 o _)
  | first =>
    simp only [apResume]
    split
    · exact beginAccess_between (Cont.command_ap u .last) s
    · exact apDone_between u 0 o s
  | last => exact apDone_between u v o s

theorem memFault_between (rd : Bool) (s : State) : Between (.mem true .select) s (memFault rd s) :=
  (((setCswCache_kept _ _ s).trans (setTarCache_kept _ _ _)).trans (invalidateApCaches_kept _)).between
    (beginAccess_between (by rfl) _)

theorem memReadNext_between (k : Nat) (s : State) : Between (.mem true .select) s (memReadNext k s) := by
  unfold memReadNext
  split <;> exact beginAccess_between (by rfl) s

theorem memWriteNext_between (k : Nat) (s : State) : Between (.mem true .select) s (memWriteNext k s) :=
  beginAccess_between (by rfl) s

theorem memData_between (rd : Bool) (k : Nat) (s : State) : Between (.mem true .select) s (memData rd k s) := by
  cases rd with
  | true => exact beginAccess_between (by rfl) s
  | false => exact memWriteNext_between k s

theorem memChunk_between (rd : Bool) (s : State) : Between (.mem true .select) s (memChunk rd s) := by
  unfold memChunk
  split
  · dsimp only
    split
    · exact memData_between rd _ s
    · exact beginAccess_between (by rfl) s
  · exact (setRspCount_kept _ s).between (finish_between .ok _)

theorem memCsw_between (rd : Bool) (s : State) : Between (.mem true .select) s (memCsw rd s) := by
  unfold memCsw
  split
  · exact memChunk_between rd s
  · exact beginAccess_between (by rfl) s

theorem memBegin_between (rd : Bool) (s : State) : Between (.mem true .select) s (memBegin rd s) :=
  ensureSelect_between (by rfl) (memCsw_between rd s)

theorem memUnitDone_between (rd : Bool) (k : Nat) (s : State) : Between (.mem true .select) s (memUnitDone rd k s) := by
  unfold memUnitDone
  split
  · exact (setTarCache_kept _ _ s).between (memChunk_between rd _)
  · cases rd with
    | true => exact memReadNext_between k s
    | false => exact memWriteNext_between k s

theorem memResume_between (rd : Bool) (p : MemPos) (v : Word) (o : AccessOutcome) (s : State) :
    Between (.mem true .select) s (memResume rd p v o s) := by
  cases p with
  | abort => exact (setRspCount_kept _ s).between (finish_between .memoryFault _)
  | select =>
    simp only [memResume]
    split
    · exact (selectWritten_kept _ _ o s).between (memCsw_between rd _)
    · exact (selectWritten_kept _ _ o s).between (memFault_between rd _)
  | csw =>
    simp only [memResume]
    split
    · exact (setCswCache_kept _ _ s).between (memChunk_between rd _)
    · exact memFault_between rd s
  | tar k =>
    simp only [memResume]
    split
    · exact (setTarCache_kept _ _ s).between (memData_between rd k _)
    · exact memFault_between rd s
  | prime k =>
    simp only [memResume]
    split
    · exact memReadNext_between k s
    · exact memFault_between rd s
  | unit k =>
    simp only [memResume]
    split
    · have hstored : Kept s (if rd then storeUnit v s else s) := by
        split
        · exact storeUnit_kept v s
        · exact .refl s
      exact (hstored.trans (advanceWin_kept _)).between (memUnitDone_between rd (k - 1) _)
    · exact memFault_between rd s
end

end Sys2Proof.Machine

/-! ### What a link operation does to the latch, the link, the operand registers, and when an answer is awaited -/

namespace Sys2Proof.Machine

/-- The phases from a request that is sent to its acknowledge (R132, R133, log 21). -/
def Stage.awaitsAnswer : Stage → Bool
  | .drain | .collectIr | .collect | .ack => true
  | .idle | .start | .ir | .reloadIr | .clock | .request | .retryClock | .data | .flush | .lineReset => false

/-- From `s` to `t` the running command makes a move: the host waits, the command stays the same until its end, the latch is
cleared by the ABORT write of DP_ERROR alone (R163) and set only if `Faulted` (R137), and an answer is awaited only once
a request has been sent (R141). -/
structure Acts (Faulted : Prop) (s t : State) : Prop where
  operands : t.port.operands = s.port.operands
  hostIn : t.hostIn = s.hostIn
  link : s.cont ≠ .scan → t.dp.variant = s.dp.variant
  command : t.stage = .idle ∨ t.cont.command = s.cont.command
  latch : t.dp.fault = s.dp.fault ∨ t.dp.fault = false ∧ (∃ e, s.cont = .errorAbort e) ∨
    t.dp.fault = true ∧ Faulted
  sent : s.cont ≠ .scan → t.stage.awaitsAnswer = true →
    t.fsmLog = .requestSent :: s.fsmLog ∨ s.stage.awaitsAnswer = true ∧ t.fsmLog = s.fsmLog

/-- The records of the DebugPort, the command port, the host and the command are untouched: what a call, a move of `fsm`
or an answer taken leaves. -/
structure Alike (s t : State) : Prop where
  dp : t.dp = s.dp
  port : t.port = s.port
  hostIn : t.hostIn = s.hostIn
  cont : t.cont = s.cont

section
variable {F G : Prop} {s t u : State}

theorem Acts.imp (h : Acts F s t) (hfg : F → G) : Acts G s t :=
  { h with latch := h.latch.imp_right (Or.imp_right (And.imp_right hfg)) }

theorem Alike.refl (s : State) : Alike s s := ⟨rfl, rfl, rfl, rfl⟩

theorem Alike.trans (h : Alike s u) (k : Alike u t) : Alike s t :=
  ⟨k.dp.trans h.dp, k.port.trans h.port, k.hostIn.trans h.hostIn, k.cont.trans h.cont⟩

theorem Alike.logCall (h : Alike s t) (c : TapCall) : Alike s (logCall c t) := h.trans ⟨rfl, rfl, rfl, rfl⟩

theorem Alike.logCalls (h : Alike s t) (n : Nat) (c : TapCall) : Alike s (logCalls n c t) :=
  h.trans ⟨rfl, rfl, rfl, rfl⟩

theorem Alike.moveFsm (h : Alike s t) (f : Fsm) : Alike s (moveFsm f t) := h.trans ⟨rfl, rfl, rfl, rfl⟩

theorem Alike.setAcc (h : Alike s t) (x : Access) : Alike s (t.setAcc x) := h.trans ⟨rfl, rfl, rfl, rfl⟩

theorem Alike.setTapIn (h : Alike s t) (rest : List TapReply) : Alike s (t.setTapIn rest) :=
  h.trans ⟨rfl, rfl, rfl, rfl⟩

theorem Alike.setClkIn (h : Alike s t) (rest : List Word) : Alike s (t.setClkIn rest) := h.trans ⟨rfl, rfl, rfl, rfl⟩

theorem Alike.setT0 (h : Alike s t) (now : Word) : Alike s (t.setT0 now) := h.trans ⟨rfl, rfl, rfl, rfl⟩

theorem Alike.forgetT0 (h : Alike s t) : Alike s (forgetT0 t) := h.trans ⟨rfl, rfl, rfl, rfl⟩

theorem Alike.moveFsmInAccess (h : Alike s t) (f : Fsm) : Alike s (moveFsmInAccess f t) := by
  unfold Machine.moveFsmInAccess
  split
  · exact h
  · exact h.moveFsm f

theorem Alike.receiveAck (h : Alike s t) : Alike s (receiveAck t) := by
  unfold Machine.receiveAck
  split
  · exact h.logCall _
  · exact h

theorem Alike.flushNonOk (h : Alike s t) : Alike s (flushNonOk t) := by
  unfold Machine.flushNonOk
  split
  · exact h.logCall _
  · exact h

/-- A new phase at which no answer is awaited. -/
theorem Alike.acts_setStage (h : Alike s u) {g : Stage} (hg : g.awaitsAnswer = false) : Acts F s (u.setStage g) where
  operands := by simp [h.port]
  hostIn := h.hostIn
  link := fun _ => by simp [h.dp]
  command := .inr (by simp [h.cont])
  latch := .inl (by simp [h.dp])
  sent := fun _ hawaits => by simp [hg] at hawaits

/-- A move to a phase at which an answer is awaited: a request has just been sent, or was. -/
theorem Alike.acts_awaits (h : Alike s u) (g : Stage)
    (hlog : s.cont ≠ .scan → u.fsmLog = .requestSent :: s.fsmLog ∨ s.stage.awaitsAnswer = true ∧ u.fsmLog = s.fsmLog) :
    Acts F s (u.setStage g) where
  operands := by simp [h.port]
  hostIn := h.hostIn
  link := fun _ => by simp [h.dp]
  command := .inr (by simp [h.cont])
  latch := .inl (by simp [h.dp])
  sent := fun hc _ => hlog hc

theorem Acts.refl (s : State) : Acts F s s where
  operands := rfl
  hostIn := rfl
  link := fun _ => rfl
  command := .inr rfl
  latch := .inl rfl
  sent := fun _ hawaits => .inr ⟨hawaits, rfl⟩

/-- A move from a state that differs from `s` in the answers at hand, the calls or the transaction only. -/
theorem Acts.of_alike (k : Acts F u t) (h : Alike s u) (hst : u.stage = s.stage) (hlog : u.fsmLog = s.fsmLog) :
    Acts F s t where
  operands := by rw [k.operands, h.port]
  hostIn := by rw [k.hostIn, h.hostIn]
  link := fun hc => by rw [k.link (by rwa [h.cont]), h.dp]
  command := by rw [← h.cont]; exact k.command
  latch := by rw [← h.dp, ← h.cont]; exact k.latch
  sent := by rw [← h.cont, ← hst, ← hlog]; exact k.sent

/-- A move whose first part is of no consequence to the records, and which ends where no answer is awaited. -/
theorem Alike.acts (h : Alike s u) (k : Acts F u t) (hend : t.stage.awaitsAnswer = false) : Acts F s t where
  operands := by rw [k.operands, h.port]
  hostIn := by rw [k.hostIn, h.hostIn]
  link := fun hc => by rw [k.link (by rwa [h.cont]), h.dp]
  command := by rw [← h.cont]; exact k.command
  latch := by rw [← h.dp, ← h.cont]; exact k.latch
  sent := fun _ hawaits => by simp [hend] at hawaits

/-! #### The end of an access -/

theorem finish_acts (r : Status) (s : State) : Acts F s (finish r s) where
  operands := by simp [HostPort.operands]
  hostIn := by simp
  link := fun _ => by simp
  command := .inl rfl
  latch := .inl (by simp)
  sent := fun _ hawaits => by simp [Stage.awaitsAnswer] at hawaits

theorem raise_acts (c : Condition) (s : State) : Acts F s (raise c s) where
  operands := by simp [HostPort.operands]
  hostIn := by simp
  link := fun _ => by simp
  command := .inl (by simp)
  latch := .inl (by simp)
  sent := fun _ hawaits => by simp [Stage.awaitsAnswer] at hawaits

/-- The command of a position goes on, or another access of it begins. -/
theorem Between.acts (h : Between s.cont.command s t) (hq : Quiet s t) :
    Acts F s t ∧ t.stage.awaitsAnswer = false := by
  have hend : t.stage.awaitsAnswer = false := by
    rcases h.next with hst | ⟨hst, -⟩ <;> rw [hst] <;> rfl
  exact ⟨⟨h.operands, hq.hostIn, fun _ => h.link, h.next.imp_right And.right, .inl h.latch,
    fun _ hawaits => by simp [hend] at hawaits⟩, hend⟩

/-- What `low_access` returns to: all but the ABORT write of DP_ERROR keep the latch (R163). -/
theorem resume_between (h : ∀ e, s.cont ≠ .errorAbort e) (v : Word) (o : AccessOutcome) :
    Between s.cont.command s (resume v o s) := by
  cases hc : s.cont with
  | errorAbort e => exact absurd hc (h e)
  | none | scan =>
    simp only [resume, hc]
    exact ⟨⟨rfl, rfl, rfl⟩, .inl rfl⟩
  | lowAccess | dpRead =>
    simp only [resume, hc]
    exact (setRspValue_kept v s).between (finish_between .ok _)
  | dpReadFirst =>
    simp only [resume, hc]
    split
    · exact beginAccess_between (by rfl) s
    · exact (setRspValue_kept 0 s).between (finish_between .ok _)
  | dpWrite | dpAbort =>
    simp only [resume, hc]
    exact finish_between .ok s
  | errorRead =>
    simp only [resume, hc]
    exact beginAccess_between (by rfl) s
  | ap use p =>
    simp only [resume, hc]
    rw [Cont.command_ap]
    exact apResume_between use p v o s
  | mem rd p =>
    simp only [resume, hc]
    exact memResume_between rd p v o s

/-- The last move of DP_ERROR (R163). -/
theorem resume_errorAbort {e : Word} (hc : s.cont = .errorAbort e) (v : Word) (o : AccessOutcome) :
    resume v o s = finish .ok (setRspValue e (clearFault s)) := by
  simp only [resume, hc]

theorem resume_acts (v : Word) (o : AccessOutcome) (s : State) :
    Acts F s (resume v o s) ∧ (resume v o s).stage.awaitsAnswer = false := by
  by_cases herr : ∃ e, s.cont = .errorAbort e
  · obtain ⟨e, hc⟩ := herr
    rw [resume_errorAbort hc]
    have hacts := finish_acts (F := F) .ok (setRspValue e (clearFault s))
    exact ⟨⟨hacts.operands, hacts.hostIn, fun _ => by simp, .inl rfl, .inr (.inl ⟨by simp, e, hc⟩),
      fun _ hawaits => by simp [Stage.awaitsAnswer] at hawaits⟩, rfl⟩
  · exact (resume_between (not_exists.mp herr) v o).acts (resume_quiet v o s)

theorem returnAccess_acts (v : Word) (o : AccessOutcome) (s : State) : Acts F s (returnAccess v o s) := by
  obtain ⟨hacts, hend⟩ := resume_acts v o (forgetT0 s)
  exact (Alike.refl s).forgetT0.acts hacts hend

theorem returnAccess_awaits (v : Word) (o : AccessOutcome) (s : State) :
    (returnAccess v o s).stage.awaitsAnswer = false :=
  (resume_acts (F := False) v o (forgetT0 s)).2

theorem Alike.acts_returnAccess (h : Alike s u) (v : Word) (o : AccessOutcome) : Acts F s (returnAccess v o u) :=
  h.acts (returnAccess_acts v o u) (returnAccess_awaits v o u)

theorem Alike.acts_finish (h : Alike s u) (r : Status) : Acts F s (finish r u) :=
  h.acts (finish_acts r u) rfl

theorem Alike.acts_raise (h : Alike s u) (c : Condition) : Acts F s (raise c u) :=
  h.acts (raise_acts c u) (by simp [Stage.awaitsAnswer])
end

/-! #### Each link operation and internal move -/

section
variable {F : Prop} (s : State)

theorem startAccess_acts : Acts F s (startAccess s) := by
  unfold startAccess
  split
  · exact (((Alike.refl s).moveFsm .faulted).moveFsm .idle).acts_returnAccess 0 .skipped
  · split <;> exact (Alike.refl s).acts_setStage rfl

theorem sampleT0_acts : Acts F s (sampleT0 s) := by
  cases hc : s.clkIn with
  | nil => simpa [sampleT0, hc] using Acts.refl s
  | cons now rest =>
    rw [sampleT0_eq hc]
    exact ((((Alike.refl s).logCall .nowMs).setClkIn rest).setT0 now).acts_setStage rfl

theorem retryStage_awaits (s : State) : (retryStage s).awaitsAnswer = false := by
  rcases retryStage_cases s with h | ⟨h, -⟩ <;> rw [h] <;> rfl

theorem Alike.acts_retryOrTimeout {s u : State} (h : Alike s u) : Acts F s (retryOrTimeout u) := by
  cases hc : u.clkIn with
  | nil =>
    have hblocked : retryOrTimeout u = u.setStage .retryClock := by simp [retryOrTimeout, hc]
    rw [hblocked]
    exact h.acts_setStage rfl
  | cons now rest =>
    rw [retryOrTimeout_cons hc]
    split
    · exact ((h.logCall .nowMs).setClkIn rest).acts_setStage (retryStage_awaits u)
    · exact ((h.logCall .nowMs).setClkIn rest).acts_raise .timeout

theorem sendRequest_acts (req : Byte) : Acts F s (sendRequest req s) := by
  refine (((Alike.refl s).moveFsmInAccess .requestSent).logCall _).acts_awaits .ack fun hc => .inl ?_
  simp [moveFsmInAccess, hc]

theorem shiftScan_acts (o : BitVec 35) : Acts F s (shiftScan o s) := by
  unfold shiftScan
  split
  · next hst =>
    exact ((Alike.refl s).logCall _).acts_awaits .ack fun _ => .inr ⟨by rw [hst]; rfl, rfl⟩
  · exact (((Alike.refl s).moveFsm .requestSent).logCall _).acts_awaits _ fun _ => .inl rfl

theorem afterIr_awaits {g : Stage} (h : g ≠ .collectIr) : (afterIr g).awaitsAnswer = false := by
  cases g with
  | collectIr => exact absurd rfl h
  | _ => rfl

/-- An instruction register load leads to a phase where an answer is awaited only before a collecting scan (log 21). -/
theorem loadIr_acts (c : BitVec 4) : Acts F s (loadIr c s) := by
  have hlog : Alike s (logCall (.jtagIr c) s) := (Alike.refl s).logCall _
  by_cases hst : s.stage = .collectIr
  · exact hlog.acts_awaits _ fun _ => .inr ⟨by rw [hst]; rfl, rfl⟩
  · exact hlog.acts_setStage (afterIr_awaits hst)

theorem dropResponse_acts (hst : s.stage = .drain) : Acts F s (dropResponse s) := by
  cases ht : s.tapIn with
  | nil => simpa [dropResponse, ht] using Acts.refl s
  | cons r rest =>
    rw [dropResponse_eq ht]
    exact ((Alike.refl s).setTapIn rest).acts_awaits _ fun _ => .inr ⟨by rw [hst]; rfl, rfl⟩

theorem acceptOk_acts : Acts F s (acceptOk s) := by
  have hmoved := (Alike.refl s).receiveAck.moveFsmInAccess .dataPhase
  unfold acceptOk
  dsimp only
  split
  · exact hmoved.acts_setStage rfl
  · exact (hmoved.moveFsm .idle).acts_returnAccess _ .ok

theorem acceptWait_acts : Acts F s (acceptWait s) := by
  have hreceived := (Alike.refl s).receiveAck
  unfold acceptWait
  dsimp only
  split
  · exact hreceived.acts_finish .noDp
  · exact (hreceived.moveFsm .retrying).flushNonOk.acts_retryOrTimeout

theorem acceptInvalid_acts : Acts F s (acceptInvalid s) := by
  have hreceived := (Alike.refl s).receiveAck
  unfold acceptInvalid
  dsimp only
  split
  · exact hreceived.acts_finish .noDp
  · exact hreceived.flushNonOk.acts_raise .badAck

/-- A FAULT outside DP_SCAN latches and returns (R137), the flush of `FLUSH_ON_NON_OK` between (log 20). -/
theorem acceptFault_latches {s : State} (hc : s.cont ≠ .scan) : acceptFault s =
    returnAccess 0 .fault (moveFsm .idle (flushNonOk (latchFault (moveFsm .faulted (receiveAck s))))) := by
  have hcont : (receiveAck s).cont ≠ .scan := by rwa [(Alike.refl s).receiveAck.cont]
  unfold acceptFault
  dsimp only
  rw [if_neg hcont]

/-- The one acknowledge that sets the latch (R137); in DP_SCAN it does not (R243). -/
theorem acceptFault_acts : Acts (s.cont ≠ .scan) s (acceptFault s) := by
  by_cases hc : s.cont = .scan
  · have hreceived := (Alike.refl s).receiveAck
    unfold acceptFault
    dsimp only
    rw [if_pos (hreceived.cont.trans hc)]
    exact hreceived.acts_finish .noDp
  · rw [acceptFault_latches hc]
    have hfaulted : Alike (latchFault (moveFsm .faulted (receiveAck s)))
        (moveFsm .idle (flushNonOk (latchFault (moveFsm .faulted (receiveAck s))))) :=
      (Alike.refl _).flushNonOk.moveFsm .idle
    have hbefore : Alike s (moveFsm .faulted (receiveAck s)) := (Alike.refl s).receiveAck.moveFsm .faulted
    have hacts := hfaulted.acts_returnAccess (F := False) 0 .fault
    exact {
      operands := hacts.operands.trans (congrArg HostPort.operands hbefore.port)
      hostIn := hacts.hostIn.trans hbefore.hostIn
      link := fun _ => (hacts.link (hbefore.cont ▸ hc)).trans (congrArg DebugPort.variant hbefore.dp :)
      command := by rw [← hbefore.cont]; exact hacts.command
      latch := by
        rcases hacts.latch with hset | ⟨hcleared, e, he⟩ | ⟨-, hnot⟩
        · exact .inr (.inr ⟨hset, hc⟩)
        · exact .inr (.inl ⟨hcleared, e, hbefore.cont ▸ he⟩)
        · exact hnot.elim
      sent := fun _ hawaits => by simp [returnAccess_awaits] at hawaits }

/-- The reaction to an acknowledge (R134 to R138): FAULT alone sets the latch. -/
theorem react_acts (b : BitVec 3) : Acts (b = 0b100 ∧ s.cont ≠ .scan) s (react b s) := by
  rcases bits3_cases b with rfl | rfl | rfl | rfl | rfl | rfl | rfl | rfl
  case inr.inl => exact acceptOk_acts s
  case inr.inr.inl => exact acceptWait_acts s
  case inr.inr.inr.inr.inl => exact (acceptFault_acts s).imp fun hc => ⟨rfl, hc⟩
  all_goals exact acceptInvalid_acts s

theorem receiveData_acts (v : Word) (p : Bool) : Acts F s (receiveData v p s) := by
  have hreceived := (Alike.refl s).logCall (.seqInPar 32)
  unfold receiveData
  dsimp only
  split
  · exact (hreceived.setAcc _).acts_setStage rfl
  · split
    · exact hreceived.acts_finish .noDp
    · exact hreceived.acts_raise .parity

theorem transmitData_acts (v : Word) : Acts F s (transmitData v s) :=
  (((Alike.refl s).setAcc _).logCall _).acts_setStage rfl

theorem flushLine_acts : Acts F s (flushLine s) := by
  have hflushed := (Alike.refl s).logCall (.seqOut (Config.flushValue.setWidth 32) Config.flushBits)
  unfold flushLine
  dsimp only
  split
  · next hc =>
    exact {
      operands := by simp [scanSucceeded, HostPort.operands]
      hostIn := by simp [scanSucceeded]
      link := fun hn => absurd hc hn
      command := .inl rfl
      latch := .inl (by simp [scanSucceeded])
      sent := fun hn => absurd hc hn }
  · exact (hflushed.moveFsm .idle).acts_returnAccess _ .ok

theorem lineResetSwitch_acts : Acts F s (lineResetSwitch s) :=
  ((((Alike.refl s).logCall _).logCalls _ _).logCall _).acts_setStage rfl
end

end Sys2Proof.Machine

/-! ### The latch over a move, a run and a step -/

namespace Sys2Proof.Machine

/-- A move takes an acknowledge FAULT of a `low_access`, and `fsm` passes through Faulted (R137). -/
structure TakesFault (s t : State) : Prop where
  stage : s.stage = .ack
  cont : s.cont ≠ .scan
  answer : ∃ r, s.tapIn = r :: t.tapIn ∧ r.row s.wire s.cfg = 0b100
  moves : t.fsmLog = .idle :: .faulted :: s.fsmLog

section
variable {F : Prop} {s t u v : State}

/-- The reaction to the next acknowledge, on either link, is that to the row it stands for (R93, R99). -/
theorem linkStep_ack {r : TapReply} {rest : List TapReply} (hst : s.stage = .ack) (ht : s.tapIn = r :: rest) :
    ∃ u, linkStep s = .next (react (r.row s.wire s.cfg) u) ∧ Alike s u ∧ u.stage = s.stage ∧ u.tapIn = rest ∧
      u.fsmLog = s.fsmLog := by
  cases hw : s.wire with
  | swd => exact ⟨_, linkStep_ack_swd hst hw ht, (Alike.refl s).setTapIn rest, rfl, rfl, rfl⟩
  | jtag => exact ⟨_, linkStep_ack_jtag hst hw ht, ((Alike.refl s).setTapIn rest).setAcc _, rfl, rfl, rfl⟩

theorem receiveAck_logs (s : State) : (receiveAck s).fsmLog = s.fsmLog ∧ (receiveAck s).tapIn = s.tapIn := by
  unfold receiveAck
  split <;> exact ⟨rfl, rfl⟩

theorem flushNonOk_logs (s : State) : (flushNonOk s).fsmLog = s.fsmLog ∧ (flushNonOk s).tapIn = s.tapIn := by
  unfold flushNonOk
  split <;> exact ⟨rfl, rfl⟩

/-- After a FAULT `fsm` has passed through Faulted, and no further answer is taken (R137). -/
theorem acceptFault_logs (hc : s.cont ≠ .scan) :
    (acceptFault s).fsmLog = .idle :: .faulted :: s.fsmLog ∧ (acceptFault s).tapIn = s.tapIn := by
  have hflush := flushNonOk_logs (latchFault (moveFsm .faulted (receiveAck s)))
  have hreceive := receiveAck_logs s
  rw [acceptFault_latches hc]
  unfold returnAccess
  rw [(resume_quiet _ _ _).fsmLog, (resume_quiet _ _ _).tapIn]
  simp [hflush.1, hflush.2, hreceive.1, hreceive.2]

/-- The acknowledge phase: an answer that stands for FAULT may set the latch, no other. -/
theorem linkStep_ack_acts (hst : s.stage = .ack) (h : linkStep s = .next t) : Acts (TakesFault s t) s t := by
  cases ht : s.tapIn with
  | nil =>
    rw [linkStep_tap_blocked (.inr (.inl hst)) ht] at h
    cases h
    exact .refl s
  | cons r rest =>
    obtain ⟨u, hu, halike, hstage, htap, hlog⟩ := linkStep_ack hst ht
    rw [hu] at h
    cases h
    refine ((react_acts u (r.row s.wire s.cfg)).imp ?_).of_alike halike hstage hlog
    rintro ⟨hrow, hc⟩
    rw [hrow, react_fault]
    obtain ⟨hmoves, htaken⟩ := acceptFault_logs hc
    exact ⟨hst, halike.cont ▸ hc, ⟨r, by rw [ht, htaken, htap], hrow⟩, by rw [hmoves, hlog]⟩

/-- What any move of a running command does: it sets the latch only by taking a FAULT. -/
theorem linkStep_acts (h : linkStep s = .next t) : Acts (TakesFault s t) s t := by
  have of_move : ∀ {u}, linkStep s = .next u → Acts (TakesFault s t) s u → Acts (TakesFault s t) s t := by
    intro u hu hacts
    rw [hu] at h
    cases h
    exact hacts
  cases hst : s.stage with
  | idle => exact of_move (linkStep_idle hst) (.refl s)
  | start => exact of_move (linkStep_start hst) (startAccess_acts s)
  | ir => exact of_move (linkStep_ir hst) (loadIr_acts s _)
  | reloadIr => exact of_move (linkStep_reloadIr hst) (loadIr_acts s _)
  | collectIr => exact of_move (linkStep_collectIr hst) (loadIr_acts s _)
  | collect => exact of_move (linkStep_collect hst) (shiftScan_acts s _)
  | flush => exact of_move (linkStep_flush hst) (flushLine_acts s)
  | lineReset => exact of_move (linkStep_lineReset hst) (lineResetSwitch_acts s)
  | ack => exact linkStep_ack_acts hst h
  | clock =>
    cases hc : s.clkIn with
    | nil => exact of_move (linkStep_clock_blocked (.inl hst) hc) (.refl s)
    | cons now rest => exact of_move (linkStep_clock hst hc) (sampleT0_acts s)
  | retryClock =>
    cases hc : s.clkIn with
    | nil => exact of_move (linkStep_clock_blocked (.inr hst) hc) (.refl s)
    | cons now rest => exact of_move (linkStep_retryClock hst hc) (Alike.refl s).acts_retryOrTimeout
  | request =>
    cases hw : s.wire with
    | swd => exact of_move (linkStep_request_swd hst hw) (sendRequest_acts s _)
    | jtag => exact of_move (linkStep_request_jtag hst hw) (shiftScan_acts s _)
  | drain =>
    cases ht : s.tapIn with
    | nil => exact of_move (linkStep_tap_blocked (.inl hst) ht) (.refl s)
    | cons r rest => exact of_move (linkStep_drain hst ht) (dropResponse_acts s hst)
  | data =>
    cases hr : s.acc.rnw with
    | false => exact of_move (linkStep_data_write hst hr) (transmitData_acts s _)
    | true =>
      cases ht : s.tapIn with
      | nil => exact of_move (linkStep_tap_blocked (.inr (.inr ⟨hst, hr⟩)) ht) (.refl s)
      | cons r rest =>
        exact of_move (linkStep_data_read hst hr ht)
          ((receiveData_acts _ _ _).of_alike ((Alike.refl s).setTapIn rest) rfl rfl)

/-- The latch goes from 0 to 1 in a move only by a FAULT taken. -/
theorem Acts.faulted (h : Acts F s t) (hs : s.dp.fault = false) (ht : t.dp.fault = true) : F := by
  rcases h.latch with heq | ⟨hcleared, -⟩ | ⟨-, hF⟩
  · simp [heq, hs] at ht
  · simp [hcleared] at ht
  · exact hF

/-- The latch goes from 1 to 0 in a move only at the ABORT write of DP_ERROR (R163). -/
theorem Acts.cleared (h : Acts F s t) (hs : s.dp.fault = true) (ht : t.dp.fault = false) :
    ∃ e, s.cont = .errorAbort e := by
  rcases h.latch with heq | ⟨-, herr⟩ | ⟨hset, -⟩
  · simp [heq, hs] at ht
  · exact herr
  · simp [hset] at ht

/-- A command under way stays the same command until its end. -/
theorem Acts.command_ne (h : Acts F s t) {k : Cont} (hk : s.cont.command ≠ k) :
    t.stage = .idle ∨ t.cont.command ≠ k :=
  h.command.imp_right fun hc => by rwa [hc]

/-! #### A run that sets the latch -/

/-- Between `s` and `t` a FAULT was taken, `fsm` passing from RequestSent to Faulted. -/
def FaultTaken (s t : State) : Prop :=
  ∃ taken before after, s.tapIn = taken ++ t.tapIn ∧ (∃ r ∈ taken, r.row s.dp.variant s.cfg = 0b100) ∧
    t.fsmLog = after ++ .faulted :: .requestSent :: (before ++ s.fsmLog)

theorem FaultTaken.trans (h : FaultTaken s u) (hp : Progress u t) : FaultTaken s t := by
  obtain ⟨taken, before, after, htap, ⟨r, hr, hrow⟩, hlog⟩ := h
  obtain ⟨later, hlater⟩ := hp.tapIn
  obtain ⟨moves, hmoves⟩ := hp.fsmLog
  exact ⟨taken ++ later, before, moves ++ after, by simp [htap, hlater], ⟨r, by simp [hr], hrow⟩,
    by rw [← hmoves, hlog, List.append_assoc]⟩

/-- A command other than DP_SCAN that began from `s` stands at `u`: the answer that is awaited is that of a request it has
sent. -/
structure RunFrom (s u : State) : Prop where
  progress : Progress s u
  link : u.dp.variant = s.dp.variant
  notScan : u.stage = .idle ∨ u.cont ≠ .scan
  sent : u.stage.awaitsAnswer = true → ∃ before, u.fsmLog = .requestSent :: (before ++ s.fsmLog)

theorem RunFrom.move (h : RunFrom s u) (hst : u.stage ≠ .idle) (hm : linkStep u = .next v) : RunFrom s v := by
  have hacts := linkStep_acts hm
  have hc : u.cont ≠ .scan := h.notScan.resolve_left hst
  refine ⟨h.progress.trans (linkStep_progress hm), (hacts.link hc).trans h.link, ?_, fun hawaits => ?_⟩
  · exact (hacts.command_ne (mt Cont.command_eq_scan.mp hc)).imp_right (mt Cont.command_eq_scan.mpr)
  · rcases hacts.sent hc hawaits with hlog | ⟨hwas, hlog⟩
    · obtain ⟨moves, hmoves⟩ := h.progress.fsmLog
      exact ⟨moves, by rw [hlog, hmoves]⟩
    · rw [hlog]
      exact h.sent hwas

/-- The move that takes a FAULT, seen from the state in which the command began. -/
theorem RunFrom.faultTaken (h : RunFrom s u) (hm : TakesFault u v) : FaultTaken s v := by
  obtain ⟨taken, htaken⟩ := h.progress.tapIn
  obtain ⟨before, hbefore⟩ := h.sent (by rw [hm.stage]; rfl)
  obtain ⟨r, hr, hrow⟩ := hm.answer
  rw [wire_of_not_scan hm.cont, h.link, h.progress.cfg] at hrow
  exact ⟨taken ++ [r], before, [.idle], by simp [← htaken, hr], ⟨r, by simp, hrow⟩, by rw [hm.moves, hbefore]; rfl⟩

/-- A run from an unset latch that ends with the latch set has taken a FAULT. -/
theorem RunFrom.drive_faultTaken {n : Nat} (h : RunFrom s u) (hu : u.dp.fault = false) (hrun : drive n u = .next t)
    (ht : t.dp.fault = true) : FaultTaken s t := by
  have hboth : RunFrom s t ∧ (t.dp.fault = true → FaultTaken s t) := by
    refine drive_induction (P := fun v => RunFrom s v ∧ (v.dp.fault = true → FaultTaken s v)) ?_
      ⟨h, fun hset => by simp [hu] at hset⟩ hrun
    rintro v w ⟨hv, htaken⟩ hst hm
    refine ⟨hv.move hst hm, fun hset => ?_⟩
    cases hlatch : v.dp.fault with
    | true => exact (htaken hlatch).trans (linkStep_progress hm)
    | false => exact hv.faultTaken ((linkStep_acts hm).faulted hlatch hset)
  exact hboth.2 ht

/-- DP_SCAN sets no latch (R243). -/
theorem drive_scan_fault {n : Nat} (hc : s.stage = .idle ∨ s.cont = .scan) (hs : s.dp.fault = false)
    (hrun : drive n s = .next t) : t.dp.fault = false := by
  have hboth : t.dp.fault = false ∧ (t.stage = .idle ∨ t.cont = .scan) := by
    refine drive_induction (P := fun v => v.dp.fault = false ∧ (v.stage = .idle ∨ v.cont = .scan)) ?_ ⟨hs, hc⟩ hrun
    rintro v w ⟨hlatch, hscan⟩ hst hm
    have hacts := linkStep_acts hm
    have hc := hscan.resolve_left hst
    refine ⟨Bool.eq_false_iff.mpr fun hset => (hacts.faulted hlatch hset).cont hc, ?_⟩
    exact hacts.command.imp_right fun heq => Cont.command_eq_scan.mp (heq.trans (by rw [hc]; rfl))
  exact hboth.1

/-- A command other than DP_ERROR keeps a latched fault (R30). -/
theorem drive_keeps_latch {n : Nat} (hc : s.stage = .idle ∨ s.cont.command ≠ .errorRead) (hs : s.dp.fault = true)
    (hrun : drive n s = .next t) : t.dp.fault = true := by
  have hboth : t.dp.fault = true ∧ (t.stage = .idle ∨ t.cont.command ≠ .errorRead) := by
    refine drive_induction (P := fun v => v.dp.fault = true ∧ (v.stage = .idle ∨ v.cont.command ≠ .errorRead)) ?_
      ⟨hs, hc⟩ hrun
    rintro v w ⟨hlatch, hother⟩ hst hm
    have hacts := linkStep_acts hm
    refine ⟨Bool.not_eq_false _ |>.mp fun hcleared => ?_, hacts.command_ne (hother.resolve_left hst)⟩
    obtain ⟨e, he⟩ := hacts.cleared hlatch hcleared
    exact hother.resolve_left hst (by rw [he]; rfl)
  exact hboth.1
end

/-! #### The command that begins -/

/-- The command an instruction begins, as a position of it; a link operation, and a command that is complete where it begins,
has none. -/
def commandPosition : Instr → Cont
  | .dpScan => .scan
  | .lowAccessRd | .lowAccessWr => .lowAccess
  | .dpRead => .dpRead
  | .dpWrite => .dpWrite
  | .dpError => .errorRead
  | .dpAbort => .dpAbort
  | .apScan => .ap (.scan 0 0) .select
  | .apRead => .ap .read .select
  | .apWrite => .ap .write .select
  | .memRead | .memWrite => .mem true .select
  | _ => .none

section
variable {c : Cont} {i : Instr} {s t : State}

/-- The four commands that R265 leaves out, and the eleven that need a DebugPort. -/
theorem command_cases (h : i.isCommand = true) :
    i = .dpScan ∨ i = .dpAttachJtag ∨ i = .detach ∨ i = .cacheInvalidate ∨ i ∈ commandsNeedingDp := by
  cases i
  case dpScan | dpAttachJtag | detach | cacheInvalidate => simp
  case lowAccessRd | lowAccessWr | dpRead | dpWrite | dpError | dpAbort | apScan | apRead | apWrite | memRead
    | memWrite => decide
  all_goals exact absurd h Bool.false_ne_true

/-- An opcode that decodes stands in the table of R107 with its command. -/
theorem decode_command_row {op : Byte} (h : decode .cmd (op.setWidth 40) = .ok i) :
    ∃ r ∈ commandRows, op = BitVec.ofNat 8 r.word ∧ i = r.instr := by
  have hrows : ∀ r ∈ fixedRows, r.fmt = .cmd → r ∈ commandRows := by decide
  change decodeFixed .cmd _ = .ok i at h
  unfold decodeFixed at h
  split at h
  · next r hr =>
    have hfound := List.find?_some hr
    simp only [Bool.and_eq_true, decide_eq_true_iff, beq_iff_eq] at hfound
    injection h with h
    refine ⟨r, hrows r (List.mem_of_find?_eq_some hr) hfound.1, ?_, h.symm⟩
    apply BitVec.eq_of_toNat_eq
    rw [hfound.2]
    simp
    omega
  · cases h

theorem rawCacheEffects_kept (addr : BitVec 9) (w : Bool) (v : Word) (s : State) :
    Kept s (rawCacheEffects addr w v s) := by
  unfold rawCacheEffects
  repeat' split
  all_goals exact ⟨rfl, rfl, rfl⟩

theorem rawAccess_between {rnw : Bool} {addr : BitVec 9} {wval v : Word} {w : Bool} {k : Cont} (hk : k.command = c)
    (s : State) : Between c s (beginAccess rnw addr wval k (rawCacheEffects addr w v s)) :=
  (rawCacheEffects_kept addr w v s).between (beginAccess_between hk _)

/-- A command that ends before its first access. -/
theorem Kept.between_idle (h : Kept s t) (hst : t.stage = .idle) : Between c s t := ⟨h, .inl hst⟩

theorem needDp_between (hst : s.stage = .idle) {f : State → State} (h : Between c s (f s)) :
    Between c s (needDp f s) := by
  unfold needDp
  split
  · exact h
  · exact (setStatus_kept _ s).between_idle hst

theorem needAp_between (hst : s.stage = .idle) {f : State → State} (h : Between c s (f s)) :
    Between c s (needAp f s) := by
  refine needDp_between hst ?_
  split
  · exact h
  · exact (setStatus_kept _ s).between_idle hst

theorem beginDpRead_between (hst : s.stage = .idle) : Between .dpRead s (beginDpRead s) :=
  needDp_between hst (rawAccess_between (by split <;> rfl) s)

theorem beginApScan_between (hst : s.stage = .idle) : Between (.ap (.scan 0 0) .select) s (beginApScan s) :=
  needDp_between hst ((discardAps_kept s).between (scanCandidate_between 0 0 _))

theorem beginApRead_between (hst : s.stage = .idle) : Between (.ap .read .select) s (beginApRead s) := by
  refine needAp_between hst ?_
  split
  · exact ((setRspValue_kept 0 s).trans (setStatus_kept .ok _)).between_idle hst
  · exact apAccess_between .read s

theorem beginApWrite_between (hst : s.stage = .idle) : Between (.ap .write .select) s (beginApWrite s) := by
  refine needAp_between hst ?_
  split
  · exact (setStatus_kept .ok s).between_idle hst
  · exact apAccess_between .write s

theorem beginMem_between (hst : s.stage = .idle) (rd : Bool) : Between (.mem true .select) s (beginMem rd s) := by
  refine needAp_between hst ?_
  split
  · exact ((setRspCount_kept 0 s).trans (setStatus_kept .ok _)).between_idle hst
  · split
    · exact ((setRspCount_kept 0 s).trans (setStatus_kept .memoryFault _)).between_idle hst
    · exact (setWin_kept _ s).between (memBegin_between rd _)

/-- The commands that need a DebugPort begin with the latch as it is: at their end, or at their first access. -/
theorem commandBegin_between (hi : i ∈ commandsNeedingDp) (hst : s.stage = .idle) :
    Between (commandPosition i) s (commandBegin i s) := by
  cases i with
  | lowAccessRd =>
    show Between _ s (beginLowAccessRd s)
    exact needDp_between hst (rawAccess_between (by rfl) s)
  | lowAccessWr =>
    show Between _ s (beginLowAccessWr s)
    exact needDp_between hst (rawAccess_between (by rfl) s)
  | dpWrite =>
    show Between _ s (beginDpWrite s)
    exact needDp_between hst (rawAccess_between (by rfl) s)
  | dpAbort =>
    show Between _ s (beginDpAbort s)
    exact needDp_between hst (rawAccess_between (by rfl) s)
  | dpError =>
    show Between _ s (beginDpError s)
    exact needDp_between hst (beginAccess_between (by rfl) s)
  | dpRead => exact beginDpRead_between hst
  | apScan => exact beginApScan_between hst
  | apRead => exact beginApRead_between hst
  | apWrite => exact beginApWrite_between hst
  | memRead => exact beginMem_between hst true
  | memWrite => exact beginMem_between hst false
  | _ => simp [commandsNeedingDp] at hi

/-- What DP_SCAN begins has no fault and is DP_SCAN (R240). -/
theorem beginDpScan_scan (s : State) : (beginDpScan s).cont = .scan ∧ (beginDpScan s).dp.fault = false := ⟨rfl, rfl⟩

/-- A command that sets the latch is one of the eleven, and has taken a FAULT (R137). -/
theorem exec_command_sets (hi : i.isCommand = true) (h : exec i s = .next t) (hs : s.dp.fault = false)
    (ht : t.dp.fault = true) : i ∈ commandsNeedingDp ∧ FaultTaken s t := by
  obtain ⟨hst, hrun⟩ := exec_command_run hi h
  rcases command_cases hi with rfl | rfl | rfl | rfl | hneeds
  · have hclear := drive_scan_fault (.inr (beginDpScan_scan s).1) (beginDpScan_scan s).2 hrun
    simp [hclear] at ht
  · cases (launch_idle (s := attachJtag s) hst).symm.trans hrun
    cases ht
  · cases (launch_idle (s := detach s) hst).symm.trans hrun
    cases ht
  · cases (launch_idle (s := cacheInvalidate s) hst).symm.trans hrun
    simp [cacheInvalidate, hs] at ht
  · have hbegin := commandBegin_between hneeds hst
    have hscan : ∀ j ∈ commandsNeedingDp, commandPosition j ≠ .scan := by decide
    have hawaits : (commandBegin i s).stage.awaitsAnswer = false := by
      rcases hbegin.next with hidle | ⟨hstart, -⟩
      · rw [hidle]; rfl
      · rw [hstart]; rfl
    have hfrom : RunFrom s (commandBegin i s) := {
      progress := commandBegin_progress i s
      link := hbegin.link
      notScan := hbegin.next.imp_right fun hnext =>
        mt Cont.command_eq_scan.mpr (by rw [hnext.2]; exact hscan i hneeds)
      sent := fun h => by simp [hawaits] at h }
    exact ⟨hneeds, hfrom.drive_faultTaken (hbegin.latch.trans hs) hrun ht⟩

/-- A command that clears the latch is DP_SCAN, DP_ATTACH_JTAG, DETACH or DP_ERROR (R30). -/
theorem exec_command_clears (hi : i.isCommand = true) (h : exec i s = .next t) (hs : s.dp.fault = true)
    (ht : t.dp.fault = false) : i ∈ [Instr.dpScan, .dpAttachJtag, .detach, .dpError] := by
  obtain ⟨hst, hrun⟩ := exec_command_run hi h
  rcases command_cases hi with rfl | rfl | rfl | rfl | hneeds
  · simp
  · simp
  · simp
  · cases (launch_idle (s := cacheInvalidate s) hst).symm.trans hrun
    simp [cacheInvalidate, hs] at ht
  · by_cases herr : i = .dpError
    · simp [herr]
    · have hbegin := commandBegin_between hneeds hst
      have hother : ∀ j ∈ commandsNeedingDp, j ≠ .dpError → commandPosition j ≠ .errorRead := by decide
      have hkept := drive_keeps_latch (hbegin.next.imp_right fun hnext => by rw [hnext.2]; exact hother i hneeds herr)
        (hbegin.latch.trans hs) hrun
      simp [hkept] at ht
end

/-! #### A link operation by itself -/

section
variable {F : Prop} {i : Instr} {s t : State}

/-- A link operation that has a next state was given in its phase. -/
theorem acts_of_inPhase {g : Bool} {f : State → State} (h : inPhase g f s = .next t)
    (ha : g = true → Acts F s (f s)) : Acts F s t := by
  unfold inPhase at h
  split at h
  · next hg =>
    cases h
    exact ha hg
  · cases h

/-- A link operation sets the latch only where it is ACK.FAULT at an acknowledge outside DP_SCAN (R137, R243). -/
theorem exec_link_acts (hi : i.isCommand = false) (h : exec i s = .next t) :
    Acts (i = .ackFault ∧ s.stage = .ack ∧ s.cont ≠ .scan) s t := by
  cases i
  case swdDpWr0 | swdDpRd0 | swdDpWr4 | swdDpRd4 | swdDpWr8 | swdDpRd8 | swdDpWrC | swdDpRdC | swdApWr0 | swdApRd0
    | swdApWr4 | swdApRd4 | swdApWr8 | swdApRd8 | swdApWrC | swdApRdC =>
    exact acts_of_inPhase h fun _ => sendRequest_acts s _
  case jtagDpWr0 | jtagDpRd0 | jtagDpWr4 | jtagDpRd4 | jtagDpWr8 | jtagDpRd8 | jtagDpWrC | jtagDpRdC | jtagApWr0
    | jtagApRd0 | jtagApWr4 | jtagApRd4 | jtagApWr8 | jtagApRd8 | jtagApWrC | jtagApRdC =>
    exact acts_of_inPhase h fun _ => shiftScan_acts s _
  case jtagIrDpacc | jtagIrApacc => exact acts_of_inPhase h fun _ => loadIr_acts s _
  case ackOk => exact acts_of_inPhase h fun _ => acceptOk_acts s
  case ackWait => exact acts_of_inPhase h fun _ => acceptWait_acts s
  case ackFault =>
    exact acts_of_inPhase h fun hg => (acceptFault_acts s).imp fun hc => ⟨rfl, of_decide_eq_true hg, hc⟩
  case ackInvalid0 | ackInvalid3 | ackInvalid5 | ackInvalid6 | ackInvalid7 =>
    exact acts_of_inPhase h fun _ => acceptInvalid_acts s
  case swdData data parity =>
    refine acts_of_inPhase h fun _ => ?_
    split
    · exact receiveData_acts s data parity
    · exact transmitData_acts s data
  case swdFlush => exact acts_of_inPhase h fun _ => flushLine_acts s
  case swdJtag2Swd => exact acts_of_inPhase h fun _ => lineResetSwitch_acts s
  all_goals exact absurd hi Bool.noConfusion
end

/-! #### The statements about the host and the latch -/

/-- Settles O17: a busy step is one move, and a command is refused while another runs. -/
theorem hostWaitsWhileBusy : Obligations.HostWaitsWhileBusy := by
  refine ⟨fun s t hst h => ?_, fun i s hi hst => ?_⟩
  · have hacts := linkStep_acts (step_busy hst ▸ h)
    have hoperands := hacts.operands
    simp only [HostPort.operands, Prod.mk.injEq] at hoperands
    exact ⟨hacts.hostIn, hoperands⟩
  · rw [exec_command hi, onIdle_busy _ hst]

theorem hostWrite_dp (a : HostAction) (s : State) : (hostWrite a s).dp = s.dp := by
  cases a <;> rfl

/-- Settles O26: a move clears the latch at the ABORT write of DP_ERROR, a command if it is one of four. -/
theorem faultLatchSticky : Obligations.FaultLatchSticky := by
  intro s t hs h ht
  by_cases hst : s.stage = .idle
  · refine .inr ⟨hst, ?_⟩
    obtain ⟨-, rfl⟩ | ⟨a, rest, -, -, rfl⟩ | ⟨op, rest, i, hh, hd, hx⟩ | ⟨op, rest, -, rfl⟩ := step_idle_cases hst h
    · simp [hs] at ht
    · simp [hostWrite_dp, hs] at ht
    · have hclears := exec_command_clears (decode_command hd) hx hs ht
      obtain ⟨r, hr, hop, rfl⟩ := decode_command_row hd
      have hrows : ∀ r ∈ commandRows, r.instr ∈ [Instr.dpScan, .dpAttachJtag, .detach, .dpError] →
          BitVec.ofNat 8 r.word = 0x01#8 ∨ BitVec.ofNat 8 r.word = 0x02#8 ∨ BitVec.ofNat 8 r.word = 0x03#8 ∨
            BitVec.ofNat 8 r.word = 0x14#8 := by decide
      exact ⟨op, rest, hh, hop ▸ hrows r hr hclears⟩
    · simp [hostWrite_dp, hs] at ht
  · exact .inl ⟨hst, (linkStep_acts (step_busy hst ▸ h)).cleared hs ht⟩

/-- Settles O27: of link operations ACK.FAULT alone sets the latch; a step sets it by a move that takes a FAULT, or by
running a command in whose run there was such a move. -/
theorem faultLatchSetByFaultOnly : Obligations.FaultLatchSetByFaultOnly := by
  refine ⟨fun i s t hi h hs ht => (exec_link_acts hi h).faulted hs ht, fun s t h hs ht => ?_⟩
  by_cases hst : s.stage = .idle
  · refine .inr ⟨hst, ?_⟩
    obtain ⟨-, rfl⟩ | ⟨a, rest, -, -, rfl⟩ | ⟨op, rest, i, hh, hd, hx⟩ | ⟨op, rest, -, rfl⟩ := step_idle_cases hst h
    · simp [hs] at ht
    · simp [hostWrite_dp, hs] at ht
    · obtain ⟨hneeds, taken, before, after, htap, hanswer, hlog⟩ := exec_command_sets (decode_command hd) hx hs ht
      obtain ⟨r, hr, hop, rfl⟩ := decode_command_row hd
      have hrows : ∀ r ∈ commandRows, r.instr ∈ commandsNeedingDp → BitVec.ofNat 8 r.word ∈ opcodes ∧
          BitVec.ofNat 8 r.word ∉ ([0x01, 0x02, 0x03, 0x2F] : List Byte) := by decide
      obtain ⟨hmem, hnot⟩ := hrows r hr hneeds
      exact ⟨op, rest, taken, before, after, hh, hop ▸ hmem, hop ▸ hnot, htap, hanswer, hlog⟩
    · simp [hostWrite_dp, hs] at ht
  · have hfault := (linkStep_acts (step_busy hst ▸ h)).faulted hs ht
    obtain ⟨r, hr, hrow⟩ := hfault.answer
    exact .inl ⟨hfault.stage, hfault.cont, r, t.tapIn, hr, hrow⟩

end Sys2Proof.Machine

/-! ### The chunk, the lanes of DRW, and the bytes of a unit (R66, R67, R206, R208, R210) -/

namespace Sys2Proof.Machine

/-! #### The chunk -/

section
variable {c : Config} {w : Window}

/-- A legal unit divides a word (R203). -/
theorem unitSize_dvd_word {sz : BitVec 2} (hsz : sz ≠ 3) : unitSize sz ∣ 4 := by
  rcases bits2_cases sz with rfl | rfl | rfl | rfl
  · exact one_dvd 4
  · exact ⟨2, rfl⟩
  · exact dvd_refl 4
  · exact absurd rfl hsz

/-- A legal unit divides the auto-increment block (R206, log 30). -/
theorem unitSize_dvd_block {sz : BitVec 2} (hsz : sz ≠ 3) (c : Config) : unitSize sz ∣ 2 ^ c.tarWrapBits :=
  (unitSize_dvd_word hsz).trans (block_words c)

/-- The room left in the block is a whole number of units (R206). -/
theorem unitSize_dvd_room (hsz : w.sz ≠ 3) (ha : w.a.toNat % unitSize w.sz = 0) :
    unitSize w.sz ∣ 2 ^ c.tarWrapBits - blockOffset c w.a :=
  Nat.dvd_sub (unitSize_dvd_block hsz c)
    ((Nat.dvd_mod_iff (unitSize_dvd_block hsz c)).mpr (Nat.dvd_of_mod_eq_zero ha))

/-- The chunk is the smaller of what remains and what the block has room for (R206). -/
theorem chunkUnits_eq_min (h : w.done.toNat < w.units.toNat) :
    chunkUnits c w =
      min (w.units.toNat - w.done.toNat) ((2 ^ c.tarWrapBits - blockOffset c w.a) / unitSize w.sz) := by
  unfold chunkUnits unitSize
  rw [Nat.shiftRight_eq_div_pow, BitVec.toNat_sub_of_le (BitVec.le_def.mpr h.le)]

/-- A chunk ends in its block, and before the boundary only if nothing remains (R206). -/
theorem chunkUnits_fills (hsz : w.sz ≠ 3) (ha : w.a.toNat % unitSize w.sz = 0) (h : w.done.toNat < w.units.toNat) :
    chunkUnits c w * unitSize w.sz ≤ 2 ^ c.tarWrapBits - blockOffset c w.a ∧
      (chunkUnits c w = w.units.toNat - w.done.toNat ∨
        chunkUnits c w * unitSize w.sz = 2 ^ c.tarWrapBits - blockOffset c w.a) := by
  have hroom := Nat.div_mul_cancel (unitSize_dvd_room (c := c) hsz ha)
  rw [chunkUnits_eq_min h]
  refine ⟨(Nat.mul_le_mul_right _ (min_le_right _ _)).trans hroom.le, ?_⟩
  rcases min_choice (w.units.toNat - w.done.toNat) ((2 ^ c.tarWrapBits - blockOffset c w.a) / unitSize w.sz) with
    hmin | hmin <;> rw [hmin]
  · exact .inl rfl
  · exact .inr hroom
end

/-- Settles O9: the chunk is the smaller of the units left and the block's room, which is a whole number of units. -/
theorem chunkStaysInBlock : Obligations.ChunkStaysInBlock := by
  refine ⟨rfl, fun c w hsz ha h => ?_⟩
  obtain ⟨hpos, hleft⟩ := chunkUnits_bounds c w hsz ha h
  obtain ⟨hle, hend⟩ := chunkUnits_fills (c := c) hsz ha h
  have hoffset : blockOffset c w.a < 2 ^ c.tarWrapBits := Nat.mod_lt _ (Nat.two_pow_pos _)
  have hdef : blockOffset c w.a = w.a.toNat % 2 ^ c.tarWrapBits := rfl
  dsimp only
  rw [← hdef]
  exact ⟨rfl, hpos, by omega, by omega, hend.imp_right fun _ => by omega⟩

/-! #### The lanes of DRW -/

/-- A unit of `n` bits has no bit beyond them. -/
theorem getLsbD_of_lt_two_pow {x : Word} {n i : Nat} (hx : x.toNat < 2 ^ n) (hi : n ≤ i) : x.getLsbD i = false :=
  Nat.testBit_lt_two_pow (hx.trans_le (Nat.pow_le_pow_right Nat.two_pos hi))

/-- A unit of `n` bits moved up by `k` stands in bits `[k+n-1 : k]`, with zeros around it (R66). -/
theorem shiftLeft_lane {x : Word} {n : Nat} (hx : x.toNat < 2 ^ n) (k : Nat) {i : Nat} (hi : i < 32) :
    (x <<< k).getLsbD i = if k ≤ i ∧ i < k + n then x.getLsbD (i - k) else false := by
  rw [BitVec.getLsbD_shiftLeft]
  split
  · next hin => simp [hi, hin.1]
  · next hout =>
    by_cases hk : i < k
    · simp [hk]
    · simp [getLsbD_of_lt_two_pow hx (show n ≤ i - k by omega)]

/-- The lane of a byte, and that of a halfword, as a field of the value (R66). -/
theorem takeLane_byte (a v : Word) : takeLane 0 a v = (v.extractLsb' (8 * (a.toNat % 4)) 8).setWidth 32 := by
  rw [← BitVec.setWidth_ushiftRight_eq_extractLsb]
  rfl

theorem takeLane_half (a v : Word) : takeLane 1 a v = (v.extractLsb' (16 * (a.toNat / 2 % 2)) 16).setWidth 32 := by
  rw [← BitVec.setWidth_ushiftRight_eq_extractLsb]
  rfl

/-- Settles O10: each lane is a field at the shift of its address; a placed unit is the unit moved up to it. -/
theorem lanesOfDrw : Obligations.LanesOfDrw := by
  intro a v x
  exact ⟨takeLane_byte a v, fun _ => takeLane_half a v, fun _ => rfl, fun hx i hi => shiftLeft_lane hx _ hi,
    fun _ hx i hi => shiftLeft_lane hx _ hi, fun _ => BitVec.shiftLeft_zero x⟩

/-! #### The bytes of a unit -/

/-- What is placed in a lane is what the lane gives back (R208, R210). -/
theorem takeLane_placeLane {sz : BitVec 2} (hsz : sz ≠ 3) (a : Word) {x : Word}
    (hx : x.toNat < 2 ^ (8 * unitSize sz)) : takeLane sz a (placeLane sz a x) = x := by
  have hlane : ∀ k n, k + n ≤ 32 → x.toNat < 2 ^ n → ((x <<< k).extractLsb' k n).setWidth 32 = x := by
    intro k n hk hx
    refine BitVec.eq_of_getLsbD_eq fun i hi => ?_
    by_cases hin : i < n
    · simp [hi, hin, show k + i < 32 by omega]
    · simp [hin, getLsbD_of_lt_two_pow hx (not_lt.mp hin)]
  rcases bits2_cases sz with rfl | rfl | rfl | rfl
  · exact (takeLane_byte a _).trans (hlane (8 * (a.toNat % 4)) 8 (by omega) hx)
  · exact (takeLane_half a _).trans (hlane (16 * (a.toNat / 2 % 2)) 16 (by omega) hx)
  · exact BitVec.shiftLeft_zero x
  · exact absurd rfl hsz

/-- Bit `b` of a composed unit is bit `b % 8` of byte `b / 8` (R67). -/
theorem unitFromBytes_bit (m : List Host.Cell) (i n : Nat) {b : Nat} (hb : b < 32) :
    (unitFromBytes m i n).getLsbD b = if b < 8 * n then (Memory.read m (i + b / 8)).getLsbD (b % 8) else false := by
  induction n with
  | zero => simp [unitFromBytes]
  | succ n ih =>
    rw [unitFromBytes, BitVec.getLsbD_or, ih, BitVec.getLsbD_shiftLeft]
    rcases lt_trichotomy (b / 8) n with hlt | rfl | hgt
    · have h8 : b < 8 * n := by omega
      simp [h8, show b < 8 * (n + 1) by omega]
    · have hmod : b - 8 * (b / 8) = b % 8 := by omega
      simp [hb, hmod, show ¬ b < 8 * (b / 8) by omega, show b < 8 * (b / 8 + 1) by omega, show b % 8 < 32 by omega]
    · have hout : ¬ b < 8 * n := by omega
      simp [hout, show ¬ b < 8 * (n + 1) by omega,
        BitVec.getLsbD_of_ge (Memory.read m (i + n)) (b - 8 * n) (by omega)]

/-- A unit composed of `n` bytes has `8 * n` bits. -/
theorem unitFromBytes_lt (m : List Host.Cell) (i n : Nat) :
    (unitFromBytes m i n).toNat < 2 ^ (8 * n) := by
  refine Nat.lt_pow_two_of_testBit _ fun b hb => ?_
  by_cases h32 : b < 32
  · exact (unitFromBytes_bit m i n h32).trans (if_neg (by omega))
  · exact BitVec.getLsbD_of_ge _ b (by omega)

/-- The bytes of a composed unit are those it was composed of (R67, R208, R210). -/
theorem unitToBytes_unitFromBytes (m : List Host.Cell) (i : Nat) {n : Nat} (hn : n ≤ 4) :
    unitToBytes n (unitFromBytes m i n) = (List.range n).map fun j => Memory.read m (i + j) := by
  refine List.map_congr_left fun j hj => ?_
  have hj := List.mem_range.mp hj
  refine BitVec.eq_of_getLsbD_eq fun b hb => ?_
  rw [BitVec.getLsbD_extractLsb', unitFromBytes_bit m i n (by omega), if_pos (by omega)]
  simp [hb, show (8 * j + b) / 8 = j by omega, show (8 * j + b) % 8 = b by omega]

/-- Settles O11: the lane gives the composed unit back, and its bytes are the buffer's. -/
theorem unitBytesRoundTrip : Obligations.UnitBytesRoundTrip := by
  intro sz a m i hsz _
  rw [takeLane_placeLane hsz a (unitFromBytes_lt m i _)]
  exact unitToBytes_unitFromBytes m i (Nat.le_of_dvd four_pos (unitSize_dvd_word hsz))

end Sys2Proof.Machine

/-! ### A command runs until it ends or waits: the moves that the answers at hand can feed (log 5) -/

namespace Sys2Proof.Machine

/-- No command runs, or the one that runs waits for a clock reading (R11), or for an answer of the transport (R10), that
has not come. -/
def State.Halts (s : State) : Prop :=
  s.stage = .idle ∨
    (s.stage = .clock ∨ s.stage = .retryClock) ∧ s.clkIn = [] ∨
    (s.stage = .drain ∨ s.stage = .ack ∨ s.stage = .data ∧ s.acc.rnw = true) ∧ s.tapIn = []

/-- How many moves the command can make at most before its next one takes an answer, or it ends. An access that is
short-circuited (R131) makes one more: its command may begin another, which is not. -/
def State.ownMoves (s : State) : Nat :=
  match s.stage with
  | .idle | .clock | .drain | .ack | .retryClock => 0
  | .ir | .request | .collect => 1
  | .reloadIr | .collectIr | .lineReset => 2
  | .start => if isAp s.acc.addr ∧ s.dp.fault then 3 else 2
  | .flush => 4
  | .data => if s.acc.rnw then 0 else 5

/-- How many moves the command can make at most with the answers at hand: eight for each of them, and its own. -/
def State.moveBound (s : State) : Nat := 8 * s.answers + s.ownMoves

section
variable {s t u : State}

theorem ownMoves_le (s : State) : s.ownMoves ≤ 5 := by
  unfold State.ownMoves
  repeat' split
  all_goals decide

theorem ownMoves_start (h : s.stage = .start) : s.ownMoves = if isAp s.acc.addr ∧ s.dp.fault then 3 else 2 := by
  simp only [State.ownMoves, h]

theorem ownMoves_idle (h : s.stage = .idle) : s.ownMoves = 0 := by
  simp only [State.ownMoves, h]

/-- `launch` allows the command all the moves it can make. -/
theorem moveBound_le_fuel (s : State) : s.moveBound ≤ fuel s :=
  Nat.add_le_add_left ((ownMoves_le s).trans (by decide)) (8 * s.answers)

/-- An access that is not AP-addressed is not short-circuited (R131). -/
theorem beginAccess_ownMoves {addr : BitVec 9} (h : isAp addr = false) (rnw : Bool) (wval : Word) (k : Cont)
    (s : State) : (beginAccess rnw addr wval k s).ownMoves = 2 := by
  simp [State.ownMoves, h]

theorem Progress.answers_le (h : Progress s t) : t.answers ≤ s.answers :=
  Nat.add_le_add h.tapIn.length_le h.clkIn.length_le

/-- A move that takes an answer: the eight moves for it are more than all the command can make before the next one. -/
theorem Progress.moveBound_lt_of_answers (h : Progress u t) (hu : u.answers < s.answers) :
    t.moveBound < s.moveBound := by
  have hanswers := h.answers_le
  have hown := ownMoves_le t
  unfold State.moveBound
  omega

/-- A move that takes no answer is one of the command's own. -/
theorem Progress.moveBound_lt_of_ownMoves (h : Progress s t) (hown : t.ownMoves < s.ownMoves) :
    t.moveBound < s.moveBound := by
  have hanswers := h.answers_le
  unfold State.moveBound
  omega

theorem answers_takeTap {r : TapReply} {rest : List TapReply} (ht : s.tapIn = r :: rest) :
    (s.setTapIn rest).answers < s.answers := by
  simp [State.answers, ht]

theorem answers_takeClk {now : Word} {rest : List Word} (hc : s.clkIn = now :: rest) :
    (s.setClkIn rest).answers < s.answers := by
  simp [State.answers, hc]

/-! #### Where the end of an access leads -/

/-- After an access the command ends, or begins another. -/
theorem resume_idle_or_start (v : Word) (o : AccessOutcome) (s : State) :
    (resume v o s).stage = .idle ∨ (resume v o s).stage = .start := by
  by_cases herr : ∃ e, s.cont = .errorAbort e
  · obtain ⟨e, hc⟩ := herr
    rw [resume_errorAbort hc]
    exact .inl rfl
  · exact (resume_between (not_exists.mp herr) v o).next.imp_right And.left

theorem returnAccess_ownMoves_le (v : Word) (o : AccessOutcome) (s : State) : (returnAccess v o s).ownMoves ≤ 3 := by
  unfold returnAccess
  rcases resume_idle_or_start v o (forgetT0 s) with hst | hst
  · simp [ownMoves_idle hst]
  · rw [ownMoves_start hst]
    split <;> decide

/-- Under the latch AP_SCAN ends at a candidate that gave 0 (R249, log 24). -/
theorem scanNext_latched (hf : s.dp.fault = true) (i n : Nat) : scanNext i n 0 s = scanDone n s := by
  simp [scanNext, scanCandidate, hf]

/-- Under the latch an `ap_access` that gave 0 ends its command. -/
theorem apDone_latched (hf : s.dp.fault = true) (u : ApUse) (o : AccessOutcome) : (apDone u 0 o s).stage = .idle := by
  cases u with
  | read | write => rfl
  | scan i n =>
    rw [apDone, scanNext_latched hf]
    rfl

theorem apResume_skipped (hf : s.dp.fault = true) (u : ApUse) (p : ApPos) :
    (apResume u p 0 .skipped s).stage = .idle := by
  cases p with
  | select => exact apDone_latched ((selectWritten_kept _ _ .skipped s).latch.trans hf) u .skipped
  | first | last => exact apDone_latched hf u .skipped

/-- A memory transfer ends, or goes on with the ABORT write, which is not AP-addressed (R212). -/
theorem memResume_skipped (rd : Bool) (p : MemPos) (s : State) :
    (memResume rd p 0 .skipped s).ownMoves ≤ 2 := by
  cases p with
  | abort => exact Nat.zero_le 2
  | select | csw | tar k | prime k | unit k => exact (beginAccess_ownMoves rfl _ _ _ _).le

/-- After a short-circuited access the command ends, or begins an access that is not short-circuited (R131). -/
theorem resume_skipped (hf : s.dp.fault = true) : (resume 0 .skipped s).ownMoves ≤ 2 := by
  cases hc : s.cont with
  | ap use p =>
    simp only [resume, hc]
    exact (ownMoves_idle (apResume_skipped hf use p)).trans_le (Nat.zero_le 2)
  | mem rd p =>
    simp only [resume, hc]
    exact memResume_skipped rd p s
  | errorRead =>
    simp only [resume, hc]
    exact (beginAccess_ownMoves rfl _ _ _ s).le
  | none | scan | lowAccess | dpReadFirst | dpRead | dpWrite | dpAbort | errorAbort e =>
    simp only [resume, hc]
    exact Nat.zero_le 2

/-! #### The moves that take no answer -/

theorem startAccess_ownMoves (hst : s.stage = .start) : (startAccess s).ownMoves < s.ownMoves := by
  rw [ownMoves_start hst]
  by_cases hskip : isAp s.acc.addr = true ∧ s.dp.fault = true
  · rw [startAccess_skip hskip, if_pos hskip]
    exact Nat.lt_succ_of_le (resume_skipped (s := forgetT0 (moveFsm .idle (moveFsm .faulted s))) hskip.2)
  · unfold startAccess
    rw [if_neg hskip, if_neg hskip]
    split <;> simp [State.ownMoves]

theorem loadIr_ownMoves (hst : s.stage = .ir ∨ s.stage = .reloadIr ∨ s.stage = .collectIr) (c : BitVec 4) :
    (loadIr c s).ownMoves < s.ownMoves := by
  rcases hst with hst | hst | hst <;> simp [State.ownMoves, loadIr, afterIr, hst]

theorem sendRequest_ownMoves (hst : s.stage = .request) (req : Byte) : (sendRequest req s).ownMoves < s.ownMoves := by
  simp [State.ownMoves, sendRequest, hst]

theorem shiftScan_ownMoves (hst : s.stage = .request ∨ s.stage = .collect) (o : BitVec 35) :
    (shiftScan o s).ownMoves < s.ownMoves := by
  rcases hst with hst | hst
  · rw [shiftScan_request hst]
    split <;> simp [State.ownMoves, hst]
  · rw [shiftScan_collect hst]
    simp [State.ownMoves, hst]

theorem transmitData_ownMoves (hst : s.stage = .data) (hr : s.acc.rnw = false) (v : Word) :
    (transmitData v s).ownMoves < s.ownMoves := by
  simp [State.ownMoves, transmitData, hst, hr]

theorem flushLine_ownMoves (hst : s.stage = .flush) : (flushLine s).ownMoves < s.ownMoves := by
  have hown : s.ownMoves = 4 := by simp only [State.ownMoves, hst]
  rw [hown]
  by_cases hc : s.cont = .scan
  · have hend : (flushLine s).stage = .idle := by simp [flushLine, hc, scanSucceeded]
    simp [ownMoves_idle hend]
  · rw [flushLine_eq hc]
    exact Nat.lt_succ_of_le (returnAccess_ownMoves_le _ _ _)

theorem lineResetSwitch_ownMoves (hst : s.stage = .lineReset) : (lineResetSwitch s).ownMoves < s.ownMoves := by
  simp [State.ownMoves, lineResetSwitch, hst]

/-! #### The moves that take an answer -/

theorem sampleT0_moveBound {now : Word} {rest : List Word} (hc : s.clkIn = now :: rest) :
    (sampleT0 s).moveBound < s.moveBound := by
  rw [sampleT0_eq hc]
  exact (Progress.refl _).moveBound_lt_of_answers (answers_takeClk hc)

theorem retryOrTimeout_moveBound {now : Word} {rest : List Word} (hc : s.clkIn = now :: rest) :
    (retryOrTimeout s).moveBound < s.moveBound := by
  rw [retryOrTimeout_cons hc]
  refine Progress.moveBound_lt_of_answers (u := (logCall .nowMs s).setClkIn rest) ?_ (answers_takeClk hc)
  split
  · exact (Progress.refl _).setStage _
  · exact (Progress.refl _).raise .timeout

theorem dropResponse_moveBound {r : TapReply} {rest : List TapReply} (ht : s.tapIn = r :: rest) :
    (dropResponse s).moveBound < s.moveBound := by
  rw [dropResponse_eq ht]
  exact ((Progress.refl _).setStage _).moveBound_lt_of_answers (answers_takeTap ht)

/-- The next acknowledge, on either link. -/
theorem linkStep_ack_moveBound {r : TapReply} {rest : List TapReply} (hst : s.stage = .ack) (ht : s.tapIn = r :: rest) :
    ∃ t, linkStep s = .next t ∧ t.moveBound < s.moveBound := by
  have htaken := answers_takeTap ht
  cases hw : s.wire with
  | swd => exact ⟨_, linkStep_ack_swd hst hw ht, (react_progress _ _).moveBound_lt_of_answers htaken⟩
  | jtag => exact ⟨_, linkStep_ack_jtag hst hw ht, (react_progress _ _).moveBound_lt_of_answers htaken⟩

/-! #### The run of a command -/

/-- A command that is not halted makes a move, and has fewer left. -/
theorem halts_or_moves (s : State) : s.Halts ∨ ∃ t, linkStep s = .next t ∧ t.moveBound < s.moveBound := by
  have of_move : ∀ {t}, linkStep s = .next t → t.moveBound < s.moveBound →
      s.Halts ∨ ∃ t, linkStep s = .next t ∧ t.moveBound < s.moveBound :=
    fun hm hlt => .inr ⟨_, hm, hlt⟩
  have of_own : ∀ {t}, linkStep s = .next t → t.ownMoves < s.ownMoves →
      s.Halts ∨ ∃ t, linkStep s = .next t ∧ t.moveBound < s.moveBound :=
    fun hm hown => of_move hm ((linkStep_progress hm).moveBound_lt_of_ownMoves hown)
  cases hst : s.stage with
  | idle => exact .inl (.inl hst)
  | start => exact of_own (linkStep_start hst) (startAccess_ownMoves hst)
  | ir => exact of_own (linkStep_ir hst) (loadIr_ownMoves (.inl hst) _)
  | reloadIr => exact of_own (linkStep_reloadIr hst) (loadIr_ownMoves (.inr (.inl hst)) _)
  | collectIr => exact of_own (linkStep_collectIr hst) (loadIr_ownMoves (.inr (.inr hst)) _)
  | collect => exact of_own (linkStep_collect hst) (shiftScan_ownMoves (.inr hst) _)
  | flush => exact of_own (linkStep_flush hst) (flushLine_ownMoves hst)
  | lineReset => exact of_own (linkStep_lineReset hst) (lineResetSwitch_ownMoves hst)
  | request =>
    cases hw : s.wire with
    | swd => exact of_own (linkStep_request_swd hst hw) (sendRequest_ownMoves hst _)
    | jtag => exact of_own (linkStep_request_jtag hst hw) (shiftScan_ownMoves (.inl hst) _)
  | clock =>
    cases hc : s.clkIn with
    | nil => exact .inl (.inr (.inl ⟨.inl hst, hc⟩))
    | cons now rest => exact of_move (linkStep_clock hst hc) (sampleT0_moveBound hc)
  | retryClock =>
    cases hc : s.clkIn with
    | nil => exact .inl (.inr (.inl ⟨.inr hst, hc⟩))
    | cons now rest => exact of_move (linkStep_retryClock hst hc) (retryOrTimeout_moveBound hc)
  | drain =>
    cases ht : s.tapIn with
    | nil => exact .inl (.inr (.inr ⟨.inl hst, ht⟩))
    | cons r rest => exact of_move (linkStep_drain hst ht) (dropResponse_moveBound ht)
  | ack =>
    cases ht : s.tapIn with
    | nil => exact .inl (.inr (.inr ⟨.inr (.inl hst), ht⟩))
    | cons r rest => exact .inr (linkStep_ack_moveBound hst ht)
  | data =>
    cases hr : s.acc.rnw with
    | false => exact of_own (linkStep_data_write hst hr) (transmitData_ownMoves hst hr _)
    | true =>
      cases ht : s.tapIn with
      | nil => exact .inl (.inr (.inr ⟨.inr (.inr ⟨hst, hr⟩), ht⟩))
      | cons r rest =>
        exact of_move (linkStep_data_read hst hr ht)
          ((receiveData_progress _ _ _).moveBound_lt_of_answers (answers_takeTap ht))

theorem linkStep_halts (h : s.Halts) : linkStep s = .next s := by
  rcases h with hst | ⟨hst, hc⟩ | ⟨hst, ht⟩
  · exact linkStep_idle hst
  · exact linkStep_clock_blocked hst hc
  · exact linkStep_tap_blocked hst ht

/-- A halted command stays as it is, however many moves it is allowed. -/
theorem drive_halts (h : s.Halts) (n : Nat) : drive n s = .next s := by
  induction n with
  | zero => rfl
  | succ n ih => simp [drive, linkStep_halts h, ih]

/-- A run that is allowed all the moves the command can make leads to where it halts. -/
theorem halts_of_drive {n : Nat} (hn : s.moveBound ≤ n) (h : drive n s = .next t) : t.Halts := by
  induction n generalizing s with
  | zero =>
    cases h
    refine (halts_or_moves _).resolve_right ?_
    rintro ⟨u, -, hlt⟩
    omega
  | succ n ih =>
    rcases halts_or_moves s with hs | ⟨u, hu, hlt⟩
    · rw [drive_halts hs] at h
      cases h
      exact hs
    · simp only [drive, hu] at h
      exact ih (by omega) h
end

/-- Settles O28: the fuel of `launch` is no less than the moves the command can make, whatever command it is. -/
theorem commandCompletesOrWaits : Obligations.CommandCompletesOrWaits := by
  intro i s t hi _ h
  obtain ⟨-, hrun⟩ := exec_command_run hi h
  exact halts_of_drive (moveBound_le_fuel _) hrun

end Sys2Proof.Machine

/-! ### The bytes of a word, and the decoder against the encoder (30_encoding.md) -/

namespace Sys2Proof

/-! #### Words and their bytes, least significant first -/

theorem length_bytesOfNat (n w : Nat) : (bytesOfNat n w).length = n := by
  induction n generalizing w with
  | zero => rfl
  | succ n ih => simp [bytesOfNat, ih]

/-- The bytes of a number that fits in them make the number. -/
theorem natOfBytes_bytesOfNat {n w : Nat} (hw : w < 256 ^ n) : natOfBytes (bytesOfNat n w) = w := by
  induction n generalizing w with
  | zero => simp_all [bytesOfNat, natOfBytes]
  | succ n ih =>
    have hrest : w / 256 < 256 ^ n := Nat.div_lt_of_lt_mul (by rwa [Nat.pow_succ'] at hw)
    rw [bytesOfNat, natOfBytes, ih hrest, BitVec.toNat_ofNat]
    exact Nat.mod_add_div w 256

theorem natOfBytes_lt (bs : List Byte) : natOfBytes bs < 256 ^ bs.length := by
  induction bs with
  | nil => exact Nat.one_pos
  | cons b bs ih =>
    have hb : b.toNat < 256 := b.isLt
    rw [natOfBytes, List.length_cons, Nat.pow_succ]
    omega

/-- The bytes of the number that bytes make are those bytes. -/
theorem bytesOfNat_natOfBytes (bs : List Byte) : bytesOfNat bs.length (natOfBytes bs) = bs := by
  induction bs with
  | nil => rfl
  | cons b bs ih =>
    have hb : b.toNat < 256 := b.isLt
    have hlow : BitVec.ofNat 8 (b.toNat + 256 * natOfBytes bs) = b := by
      apply BitVec.eq_of_toNat_eq
      rw [BitVec.toNat_ofNat]
      omega
    have hhigh : (b.toNat + 256 * natOfBytes bs) / 256 = natOfBytes bs := by omega
    rw [List.length_cons, natOfBytes, bytesOfNat, hlow, hhigh, ih]

/-- No word of a format is wider than five bytes (R98). -/
theorem Format.bytes_le (f : Format) : f.bytes ≤ 5 := by
  cases f with
  | jtagDr ap => cases ap <;> decide
  | _ => decide

/-- A word of a format fits in the format's bytes. -/
theorem Format.word_fits (f : Format) {n : Nat} (hn : n < 2 ^ f.bits) : n < 256 ^ f.bytes := by
  have hbits : f.bits ≤ 8 * f.bytes := by
    unfold Format.bytes
    omega
  calc n < 2 ^ f.bits := hn
    _ ≤ 2 ^ (8 * f.bytes) := Nat.pow_le_pow_right Nat.two_pos hbits
    _ = 256 ^ f.bytes := Nat.pow_mul 2 8 f.bytes

/-- The bytes of a format's length make a number that a 40-bit word holds. -/
theorem toNat_word_of_bytes {f : Format} {bs : List Byte} (hlen : bs.length = f.bytes) :
    (BitVec.ofNat 40 (natOfBytes bs)).toNat = natOfBytes bs := by
  have hlt := natOfBytes_lt bs
  have hle : 256 ^ bs.length ≤ 256 ^ 5 := Nat.pow_le_pow_right (by decide) (hlen ▸ f.bytes_le)
  rw [BitVec.toNat_ofNat]
  exact Nat.mod_eq_of_lt (by omega)

/-- The bytes of an encoded word that fits are decoded as that word. -/
theorem decodeBytes_bytes {e : Encoded} (hfit : e.word.toNat < 256 ^ e.fmt.bytes) :
    decodeBytes e.fmt e.bytes = decode e.fmt e.word := by
  have hlen : e.bytes.length = e.fmt.bytes := length_bytesOfNat _ _
  have hword : natOfBytes e.bytes = e.word.toNat := natOfBytes_bytesOfNat hfit
  rw [decodeBytes, if_pos hlen, hword, BitVec.ofNat_toNat, BitVec.setWidth_eq]

/-! #### From an instruction to its word and back -/

/-- A value of `n` bits stands in the low `n` bits of a word. -/
theorem toNat_setWidth_lt {n : Nat} (x : BitVec n) : (x.setWidth 40).toNat < 2 ^ n := by
  rw [BitVec.toNat_setWidth]
  exact (Nat.mod_le _ _).trans_lt x.isLt

/-- The encoder sets no bit above the width of the format. -/
theorem encode_word_lt (i : Instr) : (encode i).word.toNat < 2 ^ (encode i).fmt.bits := by
  cases i
  case ackInvalid0 | ackInvalid3 | ackInvalid5 | ackInvalid6 | ackInvalid7 => decide
  all_goals exact toNat_setWidth_lt _

theorem decode_encodeRequest (ap rnw : Bool) (a : BitVec 2) :
    decode (encodeRequest ap rnw a).fmt (encodeRequest ap rnw a).word = .ok (swdRequestInstr ap rnw a) :=
  decode_request ap rnw a

/-- A read scan is decoded only with zero data (R98, R144). -/
theorem decode_encodeScan (ap : Bool) {rnw : Bool} (a : BitVec 2) {d : Word} (h : rnw = true → d = 0) :
    decode (encodeScan ap rnw a d).fmt (encodeScan ap rnw a d).word = .ok (jtagScanInstr ap rnw a d) :=
  decode_scan ap rnw a d h

/-- The word of a well-formed instruction is decoded as that instruction: by formula where the format has fields, by the
table of codes where it has none. -/
theorem decode_encode {i : Instr} (h : i.wellFormed = true) : decode (encode i).fmt (encode i).word = .ok i := by
  cases i
  case swdDpWr0 | swdDpRd0 | swdDpWr4 | swdDpRd4 | swdDpWr8 | swdDpRd8 | swdDpWrC | swdDpRdC | swdApWr0 | swdApRd0
    | swdApWr4 | swdApRd4 | swdApWr8 | swdApRd8 | swdApWrC | swdApRdC => exact decode_encodeRequest _ _ _
  case jtagDpWr0 | jtagDpWr4 | jtagDpWr8 | jtagDpWrC | jtagApWr0 | jtagApWr4 | jtagApWr8 | jtagApWrC =>
    exact decode_encodeScan _ _ Bool.noConfusion
  case jtagDpRd0 | jtagDpRd4 | jtagDpRd8 | jtagDpRdC | jtagApRd0 | jtagApRd4 | jtagApRd8 | jtagApRdC =>
    exact decode_encodeScan _ _ fun _ => eq_of_beq h
  case swdData data parity => exact decode_data data parity
  all_goals rfl

/-! #### From a word to an instruction and back -/

/-- A word without fields is decoded from a row of the table. -/
theorem decodeFixed_row {f : Format} {w : BitVec 40} {i : Instr} (h : decodeFixed f w = .ok i) :
    ∃ r ∈ fixedRows, r.fmt = f ∧ r.word = w.toNat ∧ r.instr = i := by
  unfold decodeFixed at h
  split at h
  · next r hr =>
    injection h with h
    have hfound := List.find?_some hr
    simp only [Bool.and_eq_true, decide_eq_true_iff, beq_iff_eq] at hfound
    exact ⟨r, List.mem_of_find?_eq_some hr, hfound.1, hfound.2, h⟩
  · cases h

theorem decodeFixed_encodes {f : Format} {w : BitVec 40} {i : Instr} (h : decodeFixed f w = .ok i) :
    i.wellFormed = true ∧ encode i = ⟨f, w⟩ := by
  have hrows : ∀ r ∈ fixedRows, r.instr.wellFormed = true ∧ encode r.instr = ⟨r.fmt, BitVec.ofNat 40 r.word⟩ := by
    decide
  obtain ⟨r, hr, rfl, hword, rfl⟩ := decodeFixed_row h
  obtain ⟨hwf, henc⟩ := hrows r hr
  rw [hword, BitVec.ofNat_toNat, BitVec.setWidth_eq] at henc
  exact ⟨hwf, henc⟩

/-- Where the bits from `n` up are zero, each of them is. -/
theorem getLsbD_of_high_zero {w : BitVec 40} {n m : Nat} (h : w.extractLsb' n m = 0) (hnm : n + m = 40) {k : Nat}
    (hk : n ≤ k) : w.getLsbD k = false := by
  by_cases hlt : k < 40
  · have hbit := congrArg (fun x : BitVec m => x.getLsbD (k - n)) h
    simpa [show k - n < m by omega, show n + (k - n) = k by omega] using hbit
  · exact BitVec.getLsbD_of_ge w k (by omega)

/-- A word of 33 bits is composed of its data and its parity bit (R94). -/
theorem dataPhaseWord_of_fields {w : BitVec 40} (h : w.extractLsb' 33 7 = 0) :
    (dataPhaseWord (w.extractLsb' 0 32) (w.getLsbD 32)).setWidth 40 = w := by
  refine BitVec.eq_of_getLsbD_eq fun k hk => ?_
  rw [BitVec.getLsbD_setWidth, dataPhaseWord_bit]
  split
  · next hdata => simp [hk, hdata]
  · next hdata =>
    rcases Nat.eq_or_lt_of_le (not_lt.mp hdata) with rfl | hhigh
    · simp
    · simp [getLsbD_of_high_zero h rfl hhigh, show k - 32 ≠ 0 by omega]

/-- A word of 35 bits is composed of its RnW, its address and its data (R98). -/
theorem jtagDrWord_of_fields {w : BitVec 40} (h : w.extractLsb' 35 5 = 0) :
    (jtagDrWord (w.getLsbD 0) (w.extractLsb' 1 2) (w.extractLsb' 3 32)).setWidth 40 = w := by
  refine BitVec.eq_of_getLsbD_eq fun k hk => ?_
  rw [BitVec.getLsbD_setWidth, jtagDrWord_bit]
  split
  · next hrnw =>
    obtain rfl : k = 0 := by omega
    simp
  · next hrnw =>
    split
    · next haddr => simp [hk, haddr, show 1 + (k - 1) = k by omega]
    · next haddr =>
      by_cases hdata : k < 35
      · simp [hk, show k - 1 - 2 < 32 by omega, show 3 + (k - 1 - 2) = k by omega]
      · simp [getLsbD_of_high_zero h rfl (not_lt.mp hdata), show ¬ k - 1 - 2 < 32 by omega]

theorem encode_jtagScanInstr (ap rnw : Bool) (a : BitVec 2) (d : Word) :
    encode (jtagScanInstr ap rnw a d) = encodeScan ap rnw a d := by
  rcases bits2_cases a with rfl | rfl | rfl | rfl <;> cases ap <;> cases rnw <;> rfl

/-- A scan is well formed exactly if it is a write, or has zero data (R98, R144). -/
theorem wellFormed_jtagScanInstr (ap rnw : Bool) (a : BitVec 2) (d : Word) :
    (jtagScanInstr ap rnw a d).wellFormed = (!rnw || d == 0) := by
  rcases bits2_cases a with rfl | rfl | rfl | rfl <;> cases ap <;> cases rnw <;> rfl

theorem decodeScan_encodes {ap : Bool} {w : BitVec 40} {i : Instr} (h : decodeScan ap w = .ok i) :
    i.wellFormed = true ∧ encode i = ⟨.jtagDr ap, w⟩ := by
  unfold decodeScan at h
  split at h
  · next hhigh =>
    split at h
    · cases h
    · next hread =>
      injection h with h
      subst h
      refine ⟨?_, ?_⟩
      · rw [wellFormed_jtagScanInstr]
        cases hrnw : w.getLsbD 0 <;> simp_all
      · rw [encode_jtagScanInstr, encodeScan, jtagDrWord_of_fields hhigh]
  · cases h

/-- What the decoder accepts is well formed, and the encoder writes the very word. -/
theorem decode_encodes {f : Format} {w : BitVec 40} {i : Instr} (h : decode f w = .ok i) :
    i.wellFormed = true ∧ encode i = ⟨f, w⟩ := by
  cases f with
  | swdData =>
    change decodeData w = .ok i at h
    unfold decodeData at h
    split at h
    · next hhigh =>
      injection h with h
      subst h
      exact ⟨rfl, congrArg (Encoded.mk .swdData) (dataPhaseWord_of_fields hhigh)⟩
    · cases h
  | jtagDr ap => exact decodeScan_encodes h
  | swdReq | ack | swdFlush | jtagIr | lineReset | cmd => exact decodeFixed_encodes h

end Sys2Proof

namespace Sys2Proof.Machine

/-! #### The statements about the encoding -/

/-- Settles O1: the word fits in the bytes of its format, and the decoder reads the instruction back from it. -/
theorem decodeOfEncode : Obligations.DecodeOfEncode := by
  intro i h
  rw [decodeBytes_bytes ((encode i).fmt.word_fits (encode_word_lt i))]
  exact decode_encode h

/-- Settles O2: the bytes are those of the word that was decoded, which is the encoder's. -/
theorem encodeOfDecode : Obligations.EncodeOfDecode := by
  intro f bs i h
  unfold decodeBytes at h
  split at h
  · next hlen =>
    obtain ⟨hwf, henc⟩ := decode_encodes h
    refine ⟨hwf, by rw [henc], ?_⟩
    rw [henc, Encoded.bytes, toNat_word_of_bytes hlen, ← hlen]
    exact bytesOfNat_natOfBytes bs
  · cases h

/-- Settles O3: each of the sixteen requests, bit by bit. -/
theorem requestByteBits : Obligations.RequestByteBits := by
  refine ⟨fun ap rnw a => ?_, rfl⟩
  rcases bits2_cases a with rfl | rfl | rfl | rfl <;> cases ap <;> cases rnw <;> decide

/-- Settles O4: each word by evaluation of the decoder. -/
theorem writtenWordsDecode : Obligations.WrittenWordsDecode :=
  ⟨rfl, rfl, rfl, rfl, rfl, rfl, rfl, rfl, rfl⟩

/-- A byte is decoded as the word it is. -/
theorem decodeBytes_byte (op : Byte) : decodeBytes .cmd [op] = decode .cmd (op.setWidth 40) := by
  show decode .cmd (BitVec.ofNat 40 (op.toNat + 256 * 0)) = _
  rw [Nat.mul_zero, Nat.add_zero, BitVec.ofNat_toNat]

/-- The opcodes of R107 are the bytes that decode as a host command. -/
theorem decode_opcode_iff (op : Byte) : (∃ i, decode .cmd (op.setWidth 40) = .ok i) ↔ op ∈ opcodes := by
  constructor
  · rintro ⟨i, h⟩
    have hrows : ∀ r ∈ commandRows, BitVec.ofNat 8 r.word ∈ opcodes := by decide
    obtain ⟨r, hr, rfl, -⟩ := decode_command_row h
    exact hrows r hr
  · have hopcodes : ∀ op ∈ opcodes, ∃ r ∈ commandRows, decode .cmd (op.setWidth 40) = .ok r.instr := by decide
    intro h
    obtain ⟨r, -, hdecode⟩ := hopcodes op h
    exact ⟨r.instr, hdecode⟩

/-- Settles O5: the table of commands and the list of opcodes name the same bytes. -/
theorem opcodesDefined : Obligations.OpcodesDefined := by
  intro op
  rw [decodeBytes_byte]
  exact decode_opcode_iff op

end Sys2Proof.Machine

/-! ### The fields of the composed register values (R100 to R103, R204) -/

namespace Sys2Proof.Machine

/-- The bits of a SELECT value: APSEL from bit 24 up, the bank in bits [7:4] (R100). -/
theorem selectValue_bit (i : Byte) (bank : BitVec 4) {k : Nat} (hk : k < 32) :
    (selectValue i bank).getLsbD k =
      ((!decide (k < 24) && i.getLsbD (k - 24)) || (!decide (k < 4) && bank.getLsbD (k - 4))) := by
  unfold selectValue
  rw [BitVec.getLsbD_or, BitVec.getLsbD_shiftLeft, BitVec.getLsbD_shiftLeft, BitVec.getLsbD_setWidth,
    BitVec.getLsbD_setWidth]
  simp [hk, show k - 24 < 32 by omega, show k - 4 < 32 by omega]

theorem selectValue_fields (i : Byte) (bank : BitVec 4) :
    (selectValue i bank).extractLsb' 24 8 = i ∧ (selectValue i bank).extractLsb' 4 4 = bank ∧
      (selectValue i bank).extractLsb' 8 16 = 0 ∧ (selectValue i bank).extractLsb' 0 4 = 0 := by
  refine ⟨?apsel, ?bank, ?middle, ?low⟩ <;> refine BitVec.eq_of_getLsbD_eq fun k hk => ?_ <;>
    rw [BitVec.getLsbD_extractLsb', selectValue_bit i bank (by omega)]
  case apsel => simp [hk, BitVec.getLsbD_of_ge bank (24 + k - 4) (by omega)]
  case bank => simp [hk, show 4 + k < 24 by omega]
  case middle => simp [show 8 + k < 24 by omega, BitVec.getLsbD_of_ge bank (8 + k - 4) (by omega)]
  case low => simp [show k < 24 by omega, show k < 4 by omega]

/-- The bits of a CSW value: those of `CSW_BASE` outside Size and AddrInc, AddrInc single, Size (R101). -/
theorem cswValue_bit (c : Config) (i : Byte) (sz : BitVec 2) {k : Nat} (hk : k < 32) :
    (cswValue c i sz).getLsbD k =
      (((cswBaseOf c i).getLsbD k && !Config.cswFieldMask.getLsbD k) || decide (k = 4) || sz.getLsbD k) := by
  have hinc : (Config.incSingle.setWidth 32 <<< Config.cswIncLsb : Word).getLsbD k = decide (k = 4) := by
    have hsingle : (Config.incSingle.setWidth 32 <<< Config.cswIncLsb : Word) = BitVec.twoPow 32 4 := by decide
    rw [hsingle, BitVec.getLsbD_twoPow]
    simp [eq_comm]
  have hsize : (sz.setWidth 32 <<< Config.cswSizeLsb : Word).getLsbD k = sz.getLsbD k := by
    show ((sz.setWidth 32 : Word) <<< 0).getLsbD k = _
    rw [BitVec.shiftLeft_zero, BitVec.getLsbD_setWidth]
    simp [hk]
  unfold cswValue
  rw [BitVec.getLsbD_or, BitVec.getLsbD_or, BitVec.getLsbD_and, BitVec.getLsbD_not, hinc, hsize]
  simp [hk]

/-- Size and AddrInc stand in bits [2:0] and [5:4] (R40, R101). -/
theorem cswFieldMask_bit {k : Nat} (hk : k < 32) :
    Config.cswFieldMask.getLsbD k = decide (k < 3 ∨ k = 4 ∨ k = 5) := by
  have hbits : ∀ k : Fin 32, Config.cswFieldMask.getLsbD k = decide (k.val < 3 ∨ k.val = 4 ∨ k.val = 5) := by decide
  exact hbits ⟨k, hk⟩

theorem cswValue_fields (c : Config) (i : Byte) (sz : BitVec 2) :
    (cswValue c i sz).extractLsb' 0 3 = sz.setWidth 3 ∧ (cswValue c i sz).extractLsb' 4 2 = 0b01 ∧
      (cswValue c i sz).getLsbD 3 = (cswBaseOf c i).getLsbD 3 ∧
      (cswValue c i sz).extractLsb' 6 26 = (cswBaseOf c i).extractLsb' 6 26 := by
  refine ⟨?size, ?inc, ?bit3, ?high⟩
  case size =>
    refine BitVec.eq_of_getLsbD_eq fun k hk => ?_
    rw [BitVec.getLsbD_extractLsb', cswValue_bit c i sz (by omega), cswFieldMask_bit (by omega)]
    simp [hk, show k ≠ 4 by omega]
  case inc =>
    refine BitVec.eq_of_getLsbD_eq fun k hk => ?_
    rw [BitVec.getLsbD_extractLsb', cswValue_bit c i sz (by omega), cswFieldMask_bit (by omega),
      BitVec.getLsbD_of_ge sz (4 + k) (by omega)]
    obtain rfl | rfl : k = 0 ∨ k = 1 := by omega
    all_goals simp
  case bit3 =>
    rw [cswValue_bit c i sz (by decide), cswFieldMask_bit (by decide), BitVec.getLsbD_of_ge sz 3 (by decide)]
    simp
  case high =>
    refine BitVec.eq_of_getLsbD_eq fun k hk => ?_
    rw [BitVec.getLsbD_extractLsb', BitVec.getLsbD_extractLsb', cswValue_bit c i sz (by omega),
      cswFieldMask_bit (by omega), BitVec.getLsbD_of_ge sz (6 + k) (by omega)]
    simp [show 6 + k ≠ 4 by omega, show 6 + k ≠ 5 by omega, show ¬ 6 + k < 3 by omega]

/-- An AP that no entry names has `CSW_BASE` 0 (R101, log 7). -/
theorem cswBaseOf_unlisted {c : Config} {i : Byte} (h : ∀ e ∈ c.cswBase, e.1 ≠ i) : cswBaseOf c i = 0 := by
  have hnone : c.cswBase.find? (fun e => e.1 == i) = none := List.find?_eq_none.mpr (by simpa using h)
  rw [cswBaseOf, hnone]

/-- The first entry that names an AP is its `CSW_BASE` (R101, log 7). -/
theorem cswBaseOf_listed {c : Config} {i : Byte} {v : Word} {l l' : List (Byte × Word)}
    (hc : c.cswBase = l ++ (i, v) :: l') (h : ∀ e ∈ l, e.1 ≠ i) : cswBaseOf c i = v := by
  have hnone : l.find? (fun e => e.1 == i) = none := List.find?_eq_none.mpr (by simpa using h)
  have hfirst : c.cswBase.find? (fun e => e.1 == i) = some (i, v) := by
    rw [hc, List.find?_append, hnone]
    simp
  rw [cswBaseOf, hfirst]

/-- Settles O6: the fields bit by bit, `CSW_BASE` by the search in its list, the fit test and the addresses as
written. -/
theorem selectAndCswValues : Obligations.SelectAndCswValues := by
  refine ⟨selectValue_fields, cswValue_fields, fun c i h => cswBaseOf_unlisted h,
    fun c i v l l' hc h => cswBaseOf_listed hc h, fun sz => rfl, fun sz v => ?_,
    rfl, rfl, rfl, rfl, rfl, rfl, rfl, rfl, rfl, rfl⟩
  rw [cswFits_some, Bool.and_eq_true, beq_iff_eq, beq_iff_eq]
  exact Iff.rfl

/-- The clear bits of the four sticky bits (R102). -/
def clearBitsOf (orun cmp err wdata : Bool) : Word :=
  (if orun then Config.orunErrClr else 0) ||| (if cmp then Config.stkCmpClr else 0)
    ||| (if err then Config.stkErrClr else 0) ||| (if wdata then Config.wdErrClr else 0)

/-- The clear bits depend on bits 1, 4, 5 and 7 of CTRL/STAT alone (R33, R102). -/
theorem clearBits_eq (err : Word) :
    clearBits err = clearBitsOf (err.getLsbD 1) (err.getLsbD 4) (err.getLsbD 5) (err.getLsbD 7) := rfl

theorem clearBitsOf_bits (orun cmp err wdata : Bool) :
    let w := clearBitsOf orun cmp err wdata
    w.getLsbD 4 = orun ∧ w.getLsbD 1 = cmp ∧ w.getLsbD 2 = err ∧ w.getLsbD 3 = wdata ∧ w.getLsbD 0 = false ∧
      w.extractLsb' 5 27 = 0 := by
  revert orun cmp err wdata
  decide

/-- Settles O7: each clear bit is its sticky bit, and the named ABORT values. -/
theorem abortClearMap : Obligations.AbortClearMap := by
  intro err
  rw [clearBits_eq]
  obtain ⟨horun, hcmp, herr, hwdata, hdap, hhigh⟩ :=
    clearBitsOf_bits (err.getLsbD 1) (err.getLsbD 4) (err.getLsbD 5) (err.getLsbD 7)
  exact ⟨horun, hcmp, herr, hwdata, hdap, hhigh, rfl, rfl, rfl, rfl, rfl⟩

end Sys2Proof.Machine

/-! ### Every step has a next state; an opcode that is no command (R108, R111, R269) -/

namespace Sys2Proof.Machine

/-- A command under way makes a move, or halts and stays as it is. -/
theorem linkStep_next (s : State) : ∃ t, linkStep s = .next t := by
  rcases halts_or_moves s with hhalts | ⟨t, ht, -⟩
  · exact ⟨s, linkStep_halts hhalts⟩
  · exact ⟨t, ht⟩

theorem drive_next (n : Nat) (s : State) : ∃ t, drive n s = .next t := by
  induction n generalizing s with
  | zero => exact ⟨s, rfl⟩
  | succ n ih =>
    obtain ⟨u, hu⟩ := linkStep_next s
    simp only [drive, hu]
    exact ih u

/-- A host command given while no command runs has a next state. -/
theorem exec_command_next {i : Instr} (hi : i.isCommand = true) {s : State} (hst : s.stage = .idle) :
    ∃ t, exec i s = .next t := by
  rw [exec_command hi, onIdle_eq _ hst]
  exact drive_next _ _

theorem hostWrite_stage (a : HostAction) (s : State) : (hostWrite a s).stage = s.stage := by
  cases a <;> rfl

theorem step_idle_next {s : State} (hst : s.stage = .idle) : ∃ t, step s = .next t := by
  cases hh : s.hostIn with
  | nil => exact ⟨s, step_idle_waits hst hh⟩
  | cons a rest =>
    by_cases hcmd : ∃ op, a = .command op
    · obtain ⟨op, rfl⟩ := hcmd
      cases hd : decode .cmd (op.setWidth 40) with
      | ok i =>
        rw [step_idle_command hst hh hd]
        exact exec_command_next (decode_command hd) ((hostWrite_stage _ _).trans hst)
      | error e => exact ⟨_, step_idle_undefined hst hh hd⟩
    · exact ⟨_, step_idle_write hst hh fun op ha => hcmd ⟨op, ha⟩⟩

/-- Settles O24: a busy step is one move of the command, an idle one an act of the host; each has a next state. -/
theorem stepNeverStops : Obligations.StepNeverStops := by
  intro s
  by_cases hst : s.stage = .idle
  · exact step_idle_next hst
  · rw [step_busy hst]
    exact linkStep_next s

/-- Settles O16: the numbers of the statuses, and the step on an opcode that is in no row of the commands. -/
theorem undefinedOpcodeRefused : Obligations.UndefinedOpcodeRefused := by
  refine ⟨⟨rfl, fun r => by cases r <;> decide⟩, fun s op rest hst hh hop => ?_⟩
  cases hd : decode .cmd (op.setWidth 40) with
  | ok i => exact absurd ((decode_opcode_iff op).mp ⟨i, hd⟩) hop
  | error e => exact step_idle_undefined hst hh hd

end Sys2Proof.Machine

/-! ### The requests, the scans and the instruction codes, each in its phase (R92, R97, R98) -/

namespace Sys2Proof.Machine

/-- A link operation in its phase has its effect. -/
theorem inPhase_next {g : Bool} (hg : g = true) (f : State → State) {s : State} : inPhase g f s = .next (f s) := by
  rw [inPhase, if_pos hg]

/-! #### The sixteen SWD requests -/

theorem exec_request {s : State} (ap rnw : Bool) (a : BitVec 2) (hst : s.stage = .request)
    (hw : s.wire = .swd) :
    exec (swdRequestInstr ap rnw a) s = .next (sendRequest (requestByte ap rnw a) s) := by
  have hlink : (swdRequestInstr ap rnw a).isCommand = false := decode_link (decode_request ap rnw a) (by decide)
  rw [exec_link _ _ hlink, execLink_request]
  exact inPhase_next (decide_eq_true ⟨hst, hw⟩) _

/-- What sending a request changes: one call, the phase, and outside DP_SCAN `fsm` (R25, R132). -/
theorem sendRequest_fields (req : Byte) (s : State) : sendRequest req s = { s with
    trace := .seqOut (req.setWidth 32) 8 :: s.trace
    stage := .ack
    fsm := if s.cont = .scan then s.fsm else .requestSent
    fsmLog := if s.cont = .scan then s.fsmLog else .requestSent :: s.fsmLog } := by
  by_cases hc : s.cont = .scan
  · simp only [sendRequest, moveFsmInAccess, if_pos hc]
    rfl
  · rw [sendRequest_eq hc, if_neg hc, if_neg hc]
    rfl

/-- The table of R92 is the formula of R90 with the instruction of each row. -/
theorem requestTable_row : ∀ r ∈ requestTable,
    r.byte = requestByte r.ap r.rnw r.a ∧ r.instr = swdRequestInstr r.ap r.rnw r.a := by
  decide

theorem requestTable_complete (ap rnw : Bool) (a : BitVec 2) :
    ∃ r ∈ requestTable, r.ap = ap ∧ r.rnw = rnw ∧ r.a = a := by
  revert ap rnw a
  decide

/-- The request of the access in flight runs the row of its APnDP, RnW and address. -/
theorem step_request_swd {s : State} (hst : s.stage = .request) (hw : s.wire = .swd) :
    step s = exec (swdRequestInstr (isAp s.acc.addr) s.acc.rnw (regBits s.acc.addr)) s :=
  step_word (fetch_request_swd hst hw) (decode_request _ _ _)

/-- Settles O31: each row of the table by the formula of R90, and the row of the access in flight. -/
theorem swdRequestsSend : Obligations.SwdRequestsSend := by
  refine ⟨fun r hr s hst hw => ?_, fun s hst hw => ?_⟩
  · obtain ⟨hbyte, hinstr⟩ := requestTable_row r hr
    rw [hbyte, hinstr, exec_request _ _ _ hst hw, sendRequest_fields]
  · obtain ⟨r, hr, hap, hrnw, ha⟩ :=
      requestTable_complete (isAp s.acc.addr) s.acc.rnw (regBits s.acc.addr)
    refine ⟨r, hr, hap, hrnw, ha, ?_⟩
    rw [step_request_swd hst hw, (requestTable_row r hr).2, hap, hrnw, ha]

/-! #### The sixteen JTAG scans -/

theorem isCommand_jtagScanInstr (ap rnw : Bool) (a : BitVec 2) (d : Word) :
    (jtagScanInstr ap rnw a d).isCommand = false := by
  rcases bits2_cases a with rfl | rfl | rfl | rfl <;> cases ap <;> cases rnw <;> rfl

theorem exec_scan {s : State} (ap rnw : Bool) (a : BitVec 2) (d : Word) (h : s.awaitsScan = true) :
    exec (jtagScanInstr ap rnw a d) s = .next (shiftScan (jtagDrWord rnw a d) s) := by
  rw [exec_link _ _ (isCommand_jtagScanInstr ap rnw a d), execLink_scan]
  exact inPhase_next h _

theorem awaitsScan_request {s : State} (hst : s.stage = .request) (hw : s.wire = .jtag) : s.awaitsScan = true :=
  decide_eq_true (.inl ⟨hst, hw⟩)

theorem awaitsScan_collect {s : State} (hst : s.stage = .collect) : s.awaitsScan = true :=
  decide_eq_true (.inr hst)

/-- The rows of R98 are those of R92 with the data before the address and RnW. -/
theorem scanTable_eq (d : Word) : scanTable d =
    requestTable.map fun r => (r.ap, r.a ++ BitVec.ofBool r.rnw, jtagScanInstr r.ap r.rnw r.a d) := rfl

/-- A row of R98 shifts its data, its address and RnW. -/
theorem scanTable_row {d : Word} {r : Bool × BitVec 3 × Instr} (hr : r ∈ scanTable d) :
    ∃ ap rnw a, r.2.2 = jtagScanInstr ap rnw a d ∧ jtagDrWord rnw a d = d ++ r.2.1 := by
  rw [scanTable_eq, List.mem_map] at hr
  obtain ⟨row, -, rfl⟩ := hr
  exact ⟨row.ap, row.rnw, row.a, rfl, BitVec.append_assoc⟩

theorem scanTable_complete (ap rnw : Bool) (a : BitVec 2) (d : Word) :
    (ap, a ++ BitVec.ofBool rnw, jtagScanInstr ap rnw a d) ∈ scanTable d := by
  obtain ⟨row, hrow, rfl, rfl, rfl⟩ := requestTable_complete ap rnw a
  rw [scanTable_eq]
  exact List.mem_map_of_mem hrow

/-- The scan of the access in flight runs the row of its register and direction, with zero data on a read (R98,
R144). -/
theorem step_request_jtag {s : State} (hst : s.stage = .request) (hw : s.wire = .jtag) :
    step s = exec (jtagScanInstr (isAp s.acc.addr) s.acc.rnw (regBits s.acc.addr)
      (if s.acc.rnw then 0 else s.acc.wval)) s :=
  step_word (fetch_request_jtag hst hw) (decode_scan _ _ _ _ fun hread => if_pos hread)

/-- Settles O32: each row at the request phase and at the collecting scan, and the row of the access in flight. -/
theorem jtagScansShift : Obligations.JtagScansShift := by
  refine ⟨fun d r hr s hst hw => ?_, fun s hst hw => ?_, fun s hst => ⟨fun d r hr => ?_, ?_⟩⟩
  · obtain ⟨ap, rnw, a, hinstr, hword⟩ := scanTable_row hr
    rw [hinstr, exec_scan _ _ _ _ (awaitsScan_request hst hw), hword, shiftScan_request hst]
    rfl
  · exact ⟨_, scanTable_complete (isAp s.acc.addr) s.acc.rnw (regBits s.acc.addr) _, rfl, rfl,
      step_request_jtag hst hw⟩
  · obtain ⟨ap, rnw, a, hinstr, hword⟩ := scanTable_row hr
    rw [hinstr, exec_scan _ _ _ _ (awaitsScan_collect hst), hword, shiftScan_collect hst]
    rfl
  · exact step_word (fetch_collect hst) rfl

/-! #### The two instruction codes -/

theorem afterIr_of_awaitsIr {s : State} (hst : s.stage = .ir ∨ s.stage = .reloadIr ∨ s.stage = .collectIr) :
    afterIr s.stage = if s.stage = .ir then .clock else if s.stage = .reloadIr then .request else .collect := by
  rcases hst with hst | hst | hst <;> rw [hst] <;> rfl

/-- Settles O33: the two codes, what follows each phase, and the code that the access, or a collecting scan, chooses. -/
theorem jtagIrLoads : Obligations.JtagIrLoads := by
  intro s hst
  dsimp only
  rw [← afterIr_of_awaitsIr hst]
  have hphase : s.awaitsIr = true := decide_eq_true hst
  refine ⟨inPhase_next hphase (loadIr Config.irDpacc), inPhase_next hphase (loadIr Config.irApacc), ?_⟩
  rcases or_assoc.mpr hst with hload | hcollect
  · have hnot : s.stage ≠ .collectIr := by rcases hload with h | h <;> simp [h]
    rw [step_word (fetch_ir hload) (decode_irCode s.acc.addr)]
    simp only [ne_eq, hnot, not_false_eq_true, true_and]
    rfl
  · rw [if_neg fun h => h.1 hcollect]
    exact step_word (fetch_collectIr hcollect) decode_ir_dpacc

/-! #### The switch sequence -/

/-- Settles O41: the calls of the line reset's second half, in order. -/
theorem switchSequence : Obligations.SwitchSequence :=
  fun _ hst => inPhase_next (decide_eq_true hst) lineResetSwitch

end Sys2Proof.Machine

/-! ### The acknowledge, the data phase and the flush (R93 to R95, R134 to R139) -/

namespace Sys2Proof.Machine

/-! #### The calls of an acknowledge -/

/-- Taking an acknowledge adds its calls: `seq_in(3)` on SWD, none on JTAG (R132, R133). -/
theorem receiveAck_calls (s : State) : receiveAck s = { s with trace := s.ackCalls.reverse ++ s.trace } := by
  unfold receiveAck State.ackCalls
  cases s.wire <;> rfl

/-- The flush of `FLUSH_ON_NON_OK` adds its call, on SWD only (R95, log 20). -/
theorem flushNonOk_calls (s : State) : flushNonOk s = { s with trace := s.nonOkCalls.reverse ++ s.trace } := by
  unfold flushNonOk State.nonOkCalls
  split <;> rfl

/-- The calls of an acknowledge that is not OK, one after the other. -/
theorem ackCalls_nonOkCalls (s : State) (calls : List TapCall) :
    s.nonOkCalls.reverse ++ (s.ackCalls.reverse ++ calls) = (s.ackCalls ++ s.nonOkCalls).reverse ++ calls := by
  rw [List.reverse_append, List.append_assoc]

/-- A command that is no memory command completes without touching the window (R24). -/
theorem finish_eq_completed {s : State} (h : s.cont.isMem = false) (r : Status) : finish r s = s.completed r := by
  rw [finish_eq, h]
  rfl

/-! #### ACK.WAIT (R135, R136) -/

/-- Outside DP_SCAN a WAIT is retried: the calls of the acknowledge, then the clock. -/
theorem acceptWait_retries {s : State} (hc : s.cont ≠ .scan) : acceptWait s = retryOrTimeout { s with
    trace := (s.ackCalls ++ s.nonOkCalls).reverse ++ s.trace, fsm := .retrying, fsmLog := .retrying :: s.fsmLog } := by
  simp only [acceptWait, receiveAck_calls, if_neg hc, flushNonOk_calls]
  rw [← ackCalls_nonOkCalls]
  rfl

/-- Below the bound the access is retried, `t0` as it was (R135). -/
theorem retryOrTimeout_below {s : State} {now : Word} {rest : List Word} (hc : s.clkIn = now :: rest)
    (hlt : (now - s.t0).toNat < s.cfg.waitTimeoutMs.toNat) :
    retryOrTimeout s = { s with trace := .nowMs :: s.trace, clkIn := rest, stage := retryStage s } := by
  rw [retryOrTimeout_cons hc, if_pos (BitVec.lt_def.mpr hlt)]
  rfl

/-- At or past the bound Timeout is raised (R136). -/
theorem retryOrTimeout_past {s : State} {now : Word} {rest : List Word} (hc : s.clkIn = now :: rest)
    (hle : s.cfg.waitTimeoutMs.toNat ≤ (now - s.t0).toNat) :
    retryOrTimeout s = State.afterRaise { s with trace := .nowMs :: s.trace, clkIn := rest } .timeout := by
  have hnot : ¬ now - s.t0 < s.cfg.waitTimeoutMs := fun hlt => Nat.not_lt.mpr hle (BitVec.lt_def.mp hlt)
  rw [retryOrTimeout_cons hc, if_neg hnot, raise_eq_afterRaise]
  rfl

/-- With no reading at hand the engine waits for one (log 26). -/
theorem retryOrTimeout_blocked {s : State} (hc : s.clkIn = []) :
    retryOrTimeout s = { s with stage := .retryClock } := by
  have hblocked : retryOrTimeout s = s.setStage .retryClock := by simp [retryOrTimeout, hc]
  exact hblocked

/-- Settles O35: the three cases of the clock reading, at the acknowledge and at the phase that awaits it. -/
theorem ackWaitRetriesOrTimesOut : Obligations.AckWaitRetriesOrTimesOut := by
  refine ⟨fun s hst hc => ?_, fun s now rest hst hclk => ?_⟩
  · have hexec : exec .ackWait s = .next (acceptWait s) := inPhase_next (decide_eq_true hst) acceptWait
    rw [hexec, acceptWait_retries hc]
    exact ⟨fun hclk => congrArg Host.Outcome.next (retryOrTimeout_blocked hclk),
      fun now rest hclk hlt => congrArg Host.Outcome.next (retryOrTimeout_below hclk hlt),
      fun now rest hclk hle => congrArg Host.Outcome.next (retryOrTimeout_past hclk hle)⟩
  · rw [step_at hst (by decide), linkStep_retryClock hst hclk]
    exact ⟨fun hlt => congrArg Host.Outcome.next (retryOrTimeout_below hclk hlt),
      fun hle => congrArg Host.Outcome.next (retryOrTimeout_past hclk hle)⟩

/-! #### ACK.FAULT and the invalid patterns (R137, R138) -/

/-- Settles O36: the latch, the calls and the moves of `fsm`, and the command goes on with `(0, FAULT)`. -/
theorem ackFaultLatches : Obligations.AckFaultLatches := by
  intro s hst hc
  have hexec : exec .ackFault s = .next (acceptFault s) := inPhase_next (decide_eq_true hst) acceptFault
  rw [hexec, acceptFault_latches hc, receiveAck_calls, flushNonOk_calls, ← ackCalls_nonOkCalls]
  rfl

/-- Outside DP_SCAN an invalid pattern raises ProtocolError (R138). -/
theorem acceptInvalid_raises {s : State} (hc : s.cont ≠ .scan) : acceptInvalid s =
    State.afterRaise { s with trace := (s.ackCalls ++ s.nonOkCalls).reverse ++ s.trace } .badAck := by
  simp only [acceptInvalid, receiveAck_calls, if_neg hc, flushNonOk_calls, raise_eq_afterRaise]
  rw [← ackCalls_nonOkCalls]
  rfl

/-- The five invalid patterns have one meaning (R138). -/
theorem exec_ackInvalid {i : Instr}
    (hi : i ∈ [Instr.ackInvalid0, .ackInvalid3, .ackInvalid5, .ackInvalid6, .ackInvalid7]) {s : State}
    (hst : s.stage = .ack) : exec i s = .next (acceptInvalid s) := by
  simp only [List.mem_cons, List.not_mem_nil, or_false] at hi
  rcases hi with rfl | rfl | rfl | rfl | rfl <;> exact inPhase_next (decide_eq_true hst) acceptInvalid

/-- Settles O37: each pattern is the raise. -/
theorem invalidAckRaises : Obligations.InvalidAckRaises := by
  intro i hi s hst hc
  rw [exec_ackInvalid hi hst, acceptInvalid_raises hc]

/-! #### The data phase (R94, R132, R139, R242) -/

/-- The exclusive-or over a list is whether an odd number of its items hold. -/
theorem foldl_xor_eq_odd (f : Nat → Bool) (l : List Nat) (p : Bool) :
    l.foldl (fun p i => p ^^ f i) p = (p ^^ decide ((l.filter f).length % 2 = 1)) := by
  induction l generalizing p with
  | nil => simp
  | cons i l ih =>
    rw [List.foldl_cons, ih]
    cases hf : f i with
    | false => simp [hf]
    | true =>
      rcases Nat.mod_two_eq_zero_or_one (l.filter f).length with hpar | hpar <;>
        simp [hf, hpar, Nat.add_mod]

/-- The parity bit of a word is whether an odd number of its bits are set (R94). -/
theorem evenParity_iff (d : Word) :
    evenParity d = true ↔ ((List.range 32).filter (fun i => d.getLsbD i)).length % 2 = 1 := by
  rw [evenParity, foldl_xor_eq_odd, Bool.false_xor, decide_eq_true_iff]

theorem dataPhaseWord_data (d : Word) (p : Bool) : (dataPhaseWord d p).extractLsb' 0 32 = d := by
  refine BitVec.eq_of_getLsbD_eq fun k hk => ?_
  rw [BitVec.getLsbD_extractLsb', dataPhaseWord_bit]
  simp [hk]

theorem dataPhaseWord_parity (d : Word) (p : Bool) : (dataPhaseWord d p).getLsbD 32 = p := by
  rw [dataPhaseWord_bit]
  cases p <;> rfl

theorem exec_data_read {s : State} (hst : s.stage = .data) (hr : s.acc.rnw = true) (d : Word) (p : Bool) :
    exec (.swdData d p) s = .next (receiveData d p s) := by
  show inPhase s.awaitsData (if s.acc.rnw then receiveData d p else transmitData d) s = _
  rw [if_pos hr]
  exact inPhase_next (decide_eq_true hst) _

theorem exec_data_write {s : State} (hst : s.stage = .data) (hr : s.acc.rnw = false) (d : Word) (p : Bool) :
    exec (.swdData d p) s = .next (transmitData d s) := by
  show inPhase s.awaitsData (if s.acc.rnw then receiveData d p else transmitData d) s = _
  rw [if_neg (by simp [hr])]
  exact inPhase_next (decide_eq_true hst) _

/-- A word of bad parity is discarded: outside DP_SCAN ProtocolError is raised (R139). -/
theorem receiveData_bad {s : State} {d : Word} {p : Bool} (hp : p ≠ evenParity d) (hc : s.cont ≠ .scan) :
    receiveData d p s = State.afterRaise { s with trace := .seqInPar 32 :: s.trace } .parity := by
  have hcont : (logCall (.seqInPar 32) s).cont ≠ .scan := hc
  simp only [receiveData, if_neg hp, if_neg hcont, raise_eq_afterRaise]
  rfl

/-- In DP_SCAN a word of bad parity fails the scan (R242). -/
theorem receiveData_scan_bad {s : State} {d : Word} {p : Bool} (hp : p ≠ evenParity d) (hc : s.cont = .scan) :
    receiveData d p s = { s with trace := .seqInPar 32 :: s.trace }.completed .noDp := by
  have hcont : (logCall (.seqInPar 32) s).cont = .scan := hc
  simp only [receiveData, if_neg hp, if_pos hcont, scanFailed]
  rw [finish_eq_completed (by rw [hcont]; rfl)]
  rfl

/-- Settles O39: the layout of the word, and the data phase by direction, parity and command. -/
theorem dataPhase : Obligations.DataPhase := by
  refine ⟨fun d p => ⟨evenParity_iff d, dataPhaseWord_data d p, dataPhaseWord_parity d p⟩, fun d p s hst => ?_⟩
  refine ⟨fun hr hp => ?_, fun hr hp hc => ?_, fun hr hp hc => ?_, fun hr => ?_⟩
  · rw [exec_data_read hst hr, receiveData_good hp]
    rfl
  · rw [exec_data_read hst hr, receiveData_bad hp hc]
  · rw [exec_data_read hst hr, receiveData_scan_bad hp hc]
  · rw [exec_data_write hst hr]
    rfl

/-! #### The flush (R95, R244) -/

/-- The flush of DP_SCAN creates the DebugPort and completes the scan (R240, R241). -/
theorem flushLine_scan {s : State} (hc : s.cont = .scan) : flushLine s = { s with
    trace := .seqOut 0 8 :: s.trace, dp := { s.dp with valid := true, idcode := s.acc.value, variant := .swd },
    port := { s.port with rspValue := s.acc.value } }.completed .ok := by
  have hcont : (logCall (.seqOut (Config.flushValue.setWidth 32) Config.flushBits) s).cont = .scan := hc
  simp only [flushLine, if_pos hcont, scanSucceeded]
  refine (finish_eq_completed ?_ .ok).trans rfl
  exact congrArg Cont.isMem hc

/-- Settles O40: the flush of an access and that of DP_SCAN. -/
theorem flushCompletes : Obligations.FlushCompletes := by
  intro s hst
  have hexec : exec .swdFlush s = .next (flushLine s) := inPhase_next (decide_eq_true hst) flushLine
  rw [hexec]
  refine ⟨fun hc => ?_, fun hc => ?_⟩
  · rw [flushLine_eq hc]
    rfl
  · rw [flushLine_scan hc]

end Sys2Proof.Machine

/-! ### DP_SCAN answered OK (R240, R241, R244, R245) -/

namespace Sys2Proof.Machine

/-- `s` at a phase of DP_SCAN's inline read (R240), with the value received so far, the calls made, latest first, and
the answers left. -/
def State.scanAt (s : State) (g : Stage) (v : Word) (calls : List TapCall) (tap : List TapReply) : State :=
  { s with stage := g, acc := ⟨true, Config.dpIdcode, 0, v⟩, cont := .scan, trace := calls, tapIn := tap }

/-- DP_SCAN at its line reset: the old DebugPort is gone, `TAP.init()` and the first run of ones have been made
(R240). -/
theorem beginDpScan_eq (s : State) : beginDpScan s =
    (destroyDp s).scanAt .lineReset 0
      (List.replicate s.cfg.lineResetHighCycles (.bitOut true) ++ .init :: s.trace) s.tapIn := rfl

section
variable (s : State) (v : Word) (calls : List TapCall) (tap : List TapReply)

/-- The rest of the line reset (R105, R240). -/
theorem linkStep_scan_lineReset : linkStep (s.scanAt .lineReset v calls tap) = .next (s.scanAt .request v
    (.seqOut 0 16 :: (List.replicate s.cfg.lineResetHighCycles (.bitOut true) ++ .seqOut 0xE79E 16 :: calls)) tap) :=
  linkStep_lineReset rfl

/-- The IDCODE read's request goes out, `fsm` staying Idle (R25, R105). -/
theorem linkStep_scan_request : linkStep (s.scanAt .request v calls tap) =
    .next (s.scanAt .ack v (.seqOut 0xA5 8 :: calls) tap) := by
  have hreq : (s.scanAt .request v calls tap).acc.request = 0xA5 := by
    show requestByte (isAp Config.dpIdcode) true (regBits Config.dpIdcode) = 0xA5
    decide
  rw [linkStep_request_swd rfl rfl, hreq, sendRequest_fields]
  rfl

/-- The acknowledge OK leads to the data phase, `fsm` staying Idle (R25, R240). -/
theorem linkStep_scan_ok {a : TapReply} (ha : a.ack = 0b001) : linkStep (s.scanAt .ack v calls (a :: tap)) =
    .next (s.scanAt .data v (.seqIn 3 :: calls) tap) := by
  rw [linkStep_ack_swd (r := a) (rest := tap) rfl rfl rfl, show a.bits.extractLsb' 0 3 = 0b001 from ha, react_ok]
  rfl

/-- The word of good parity is kept (R241). -/
theorem linkStep_scan_data {d : TapReply} (hd : d.parityOk = true) : linkStep (s.scanAt .data v calls (d :: tap)) =
    .next (s.scanAt .flush d.word (.seqInPar 32 :: calls) tap) :=
  linkStep_data_good rfl rfl rfl hd

/-- The flush ends the scan with the word for the IDCODE (R241, R244). -/
theorem linkStep_scan_flush : linkStep (s.scanAt .flush v calls tap) = .next ({ s with
    trace := .seqOut 0 8 :: calls, dp := { s.dp with valid := true, idcode := v, variant := .swd }, tapIn := tap,
    port := { s.port with rspValue := v } }.completed .ok) := by
  rw [linkStep_flush rfl, flushLine_scan rfl]
  rfl

/-- The inline read of DP_SCAN, answered OK with a word of good parity: five moves, two answers (R240, R241, R244). -/
theorem steps_scan {a d : TapReply} (ha : a.ack = 0b001) (hd : d.parityOk = true) :
    Steps 5 (s.scanAt .lineReset v calls (a :: d :: tap)) ({ s with
      trace := .seqOut 0 8 :: .seqInPar 32 :: .seqIn 3 :: .seqOut 0xA5 8 :: .seqOut 0 16 ::
        (List.replicate s.cfg.lineResetHighCycles (TapCall.bitOut true) ++ TapCall.seqOut 0xE79E 16 :: calls)
      dp := { s.dp with valid := true, idcode := d.word, variant := .swd }
      tapIn := tap
      port := { s.port with rspValue := d.word } }.completed .ok) :=
  .cons (linkStep_scan_lineReset s v _ _) <| .cons (linkStep_scan_request s v _ _) <|
    .cons (linkStep_scan_ok s v _ _ ha) <| .cons (linkStep_scan_data s v _ _ hd) <|
      .one (linkStep_scan_flush s d.word _ tap)
end

/-- The calls of DP_SCAN, latest first, as its moves make them (R240). -/
theorem scanCalls_reverse (n : Nat) (calls : List TapCall) : (scanCalls n).reverse ++ calls =
    .seqIn 3 :: .seqOut 0xA5 8 :: .seqOut 0 16 ::
      (List.replicate n (TapCall.bitOut true) ++ TapCall.seqOut 0xE79E 16 ::
        (List.replicate n (TapCall.bitOut true) ++ TapCall.init :: calls)) := by
  simp [scanCalls]

/-- Settles O47: the begin of DP_SCAN, then the five moves of its inline read, which the two answers feed. -/
theorem dpScanCreates : Obligations.DpScanCreates := by
  intro s a d rest hst htap ha hd
  refine ⟨Nat.le_add_right _ _, ?_⟩
  rw [exec_command (i := .dpScan) rfl, onIdle_eq _ hst, commandBegin, beginDpScan_eq, htap, scanCalls_reverse]
  refine (launch_of_steps (steps_scan _ _ _ _ ha hd) ?fuel (.refl _) rfl).trans ?created
  case fuel =>
    show 5 + 8 * (rest.length + s.clkIn.length) ≤ 8 * (rest.length + 1 + 1 + s.clkIn.length) + 8
    omega
  case created =>
    rw [destroyDp_eq]

end Sys2Proof.Machine

/-! ### DP_ERROR (R102, R163) -/

namespace Sys2Proof.Machine

section
variable {s t u : State}

/-- DP_ERROR begins with the read of CTRL/STAT (R163). -/
theorem exec_dpError (hst : s.stage = .idle) (hv : s.dp.valid = true) :
    exec .dpError s = launch (beginAccess true 0x004 0 .errorRead s) := by
  rw [exec_command (i := .dpError) rfl, onIdle_eq _ hst]
  exact congrArg launch (if_pos hv)

/-- After CTRL/STAT the clear bits are written, even when there are none (R102, R163). -/
theorem resume_errorRead (cs : Word) (o : AccessOutcome) (u : State) : resume cs o (u.setCont .errorRead) =
    beginAccess false 0x000 (clearBits (cs &&& 0xB2)) (.errorAbort (cs &&& 0xB2)) u := rfl

/-- After the ABORT write, whatever its outcome, the latch is cleared and the sticky bits are returned (R163). -/
theorem resume_errorAbort_completed (err v : Word) (o : AccessOutcome) (t : State) :
    resume v o (t.setCont (.errorAbort err)) =
      { t with dp := { t.dp with fault := false }, port := { t.port with rspValue := err } }.completed .ok :=
  finish_eq_completed (s := setRspValue err (clearFault (t.setCont (.errorAbort err)))) rfl .ok

/-- DP_ERROR is its two accesses, each with any outcome that returns (R163). -/
theorem dpError_of_runs {cs v : Word} {o o' : AccessOutcome} (hst : s.stage = .idle) (hv : s.dp.valid = true)
    (hread : Runs (beginAccess true 0x004 0 .errorRead s) (resume cs o (u.setCont .errorRead)))
    (habort : Runs (beginAccess false 0x000 (clearBits (cs &&& 0xB2)) (.errorAbort (cs &&& 0xB2)) u)
      (resume v o' (t.setCont (.errorAbort (cs &&& 0xB2))))) :
    exec .dpError s = .next ({ t with
      dp := { t.dp with fault := false }
      port := { t.port with rspValue := cs &&& 0xB2 } }.completed .ok) := by
  rw [resume_errorRead] at hread
  rw [resume_errorAbort_completed] at habort
  rw [exec_dpError hst hv]
  exact launch_of_runs (hread.trans habort) rfl
end

/-- CTRL/STAT and ABORT are DP registers: their accesses are not short-circuited (R131, R163). -/
theorem not_shortCircuited_of_dp {addr : BitVec 9} (h : isAp addr = false) (s : State) :
    ¬ (isAp addr = true ∧ s.dp.fault = true) := by
  simp [h]

/-- Settles O52: the outcomes of the two accesses, put together. -/
theorem dpErrorClears : Obligations.DpErrorClears := by
  intro s now now' clk mid tap hst hv hclk
  refine ⟨fun cs hread habort => ?served, fun hflush hread habort => ?readFaulted,
    fun cs hflush hread habort => ?abortFaulted⟩
  case served =>
    exact dpError_of_runs hst hv
      (runs_access_ok (by decide) (not_shortCircuited_of_dp rfl s) hclk hread)
      (runs_access_ok (s := s.afterOk true 0x004 0 mid (now' :: clk)) (by simp) (not_shortCircuited_of_dp rfl _) rfl
        habort)
  case readFaulted =>
    exact dpError_of_runs (cs := 0) hst hv
      (runs_access_fault (by decide) (not_shortCircuited_of_dp rfl s) hflush hclk hread)
      (runs_access_ok (s := s.afterFault true 0x004 0 mid (now' :: clk)) (by simp) (not_shortCircuited_of_dp rfl _) rfl
        habort)
  case abortFaulted =>
    exact dpError_of_runs hst hv
      (runs_access_ok (by decide) (not_shortCircuited_of_dp rfl s) hclk hread)
      (runs_access_fault (s := s.afterOk true 0x004 0 mid (now' :: clk)) (by simp) (not_shortCircuited_of_dp rfl _)
        hflush rfl habort)

end Sys2Proof.Machine

/-! ### A link operation outside its phase (R141, log 19) -/

namespace Sys2Proof.Machine

/-- The phases at which a word of a format is due; a host opcode is due at no phase of a running command. -/
def awaitsWord : Format → State → Bool
  | .swdReq => State.awaitsSwdRequest
  | .jtagDr _ => State.awaitsScan
  | .jtagIr => State.awaitsIr
  | .ack => State.awaitsAck
  | .swdData => State.awaitsData
  | .swdFlush => State.awaitsFlush
  | .lineReset => State.awaitsSwitch
  | .cmd => fun _ => false

/-- Every link operation is guarded by the phase of its own format. -/
theorem exec_link_inPhase {i : Instr} (hi : i.isCommand = false) (s : State) :
    ∃ f, exec i s = inPhase (awaitsWord (encode i).fmt s) f s := by
  cases i
  case dpScan | dpAttachJtag | detach | lowAccessRd | lowAccessWr | dpRead | dpWrite | dpError | dpAbort | apScan
    | apRead | apWrite | memRead | memWrite | cacheInvalidate => exact absurd hi Bool.noConfusion
  all_goals exact ⟨_, rfl⟩

theorem inPhase_refused {g : Bool} (hg : g = false) (f : State → State) (s : State) :
    inPhase g f s = .refused .outOfPhase := by
  rw [inPhase, hg]
  rfl

/-- Settles O18: the guard of the word's format is down outside the format's phases. -/
theorem linkWordsOutOfPhaseRefused : Obligations.LinkWordsOutOfPhaseRefused := by
  intro i s hi hphase
  obtain ⟨f, hexec⟩ := exec_link_inPhase hi s
  rw [hexec]
  refine inPhase_refused ?_ f s
  cases hfmt : (encode i).fmt with rw [hfmt] at hphase
  | swdReq => exact decide_eq_false hphase
  | jtagDr ap => exact decide_eq_false (not_or.mpr hphase)
  | jtagIr =>
    obtain ⟨hir, hreload, hcollect⟩ := hphase
    exact decide_eq_false (not_or.mpr ⟨hir, not_or.mpr ⟨hreload, hcollect⟩⟩)
  | ack => exact decide_eq_false hphase
  | swdData => exact decide_eq_false hphase
  | swdFlush => exact decide_eq_false hphase
  | lineReset => exact decide_eq_false hphase
  | cmd => exact hphase.elim

/-! ### ACK.OK (R133, R134, R240) -/

/-- In DP_SCAN the acknowledge OK leads to the data phase and `fsm` stays Idle (R25, R240). -/
theorem acceptOk_scan {s : State} (hc : s.cont = .scan) :
    acceptOk s = { s with trace := .seqIn 3 :: s.trace, stage := .data } := by
  have hw : s.wire = .swd := by simp [State.wire, hc]
  have hack : receiveAck s = logCall (.seqIn 3) s := by simp [receiveAck, hw]
  have hstay : moveFsmInAccess .dataPhase (logCall (.seqIn 3) s) = logCall (.seqIn 3) s := by
    simp [moveFsmInAccess, hc]
  have hw' : (logCall (.seqIn 3) s).wire = .swd := hw
  simp only [acceptOk, hack, hstay, hw']
  rfl

/-- Settles O34: the acknowledge OK on each link, and in DP_SCAN. -/
theorem ackOkProceeds : Obligations.AckOkProceeds := by
  intro s hst
  have hexec : exec .ackOk s = .next (acceptOk s) := inPhase_next (decide_eq_true hst) acceptOk
  rw [hexec]
  refine ⟨fun hc hv => ?swd, fun hc hv => ?jtag, fun hc => ?scan⟩
  case swd =>
    rw [acceptOk_swd hc hv]
    rfl
  case jtag =>
    rw [acceptOk_jtag hc hv]
    rfl
  case scan => rw [acceptOk_scan hc]

/-! ### The fault path of a memory transfer (R212) -/

/-- A dropped cache stays dropped, whatever was written to it before. -/
theorem invalidateApCaches_setCaches (i : Byte) (c c' : Option Word) (s : State) :
    invalidateApCaches (setTarCache i c (setCswCache i c' s)) = invalidateApCaches s := by
  have haps : ApTable.map AccessPort.dropCaches (setTarCache i c (setCswCache i c' s)).aps =
      ApTable.map AccessPort.dropCaches s.aps :=
    ApTable.ext_get fun k => by
      simp only [setTarCache_aps, setCswCache_aps, ApTable.get_map, ApTable.get_change]
      split <;> rfl
  rw [invalidateApCaches, haps]
  rfl

/-- The fault path begins: every AP's caches are dropped and 1 is written to ABORT (R212). -/
theorem memFault_eq (rd : Bool) (s : State) : memFault rd s = { s with
    aps := ApTable.map (fun p => { p with cswCache := none, tarCache := none }) s.aps
    acc := ⟨false, 0x000, 0x00000001, 0⟩, cont := .mem rd .abort, stage := .start } := by
  rw [memFault, invalidateApCaches_setCaches]
  rfl

/-- A FAULT on any access of a transfer but the ABORT write: the fault path begins, and after the SELECT write the
SELECT cache is dropped too (R180, R212). -/
theorem resume_mem_fault {rd : Bool} {p : MemPos} {s : State} (hc : s.cont = .mem rd p) (hp : p ≠ .abort) :
    resume 0 .fault s = { s with
      dp := { s.dp with selCache := if p = .select then none else s.dp.selCache }
      aps := ApTable.map (fun p => { p with cswCache := none, tarCache := none }) s.aps
      acc := ⟨false, 0x000, 0x00000001, 0⟩, cont := .mem rd .abort, stage := .start } := by
  have hresume : resume 0 .fault s = memResume rd p 0 .fault s := by simp only [resume, hc]
  rw [hresume]
  cases p with
  | abort => exact absurd rfl hp
  | select => exact memFault_eq rd _
  | csw | tar | prime | unit => exact memFault_eq rd s

/-- The end of the ABORT write, whatever its outcome: MEMORY_FAULT with the bytes confirmed; `win` is undefined from
here on (R24, R212). -/
theorem resume_mem_abort {rd : Bool} {s : State} (hc : s.cont = .mem rd .abort) (v : Word) (o : AccessOutcome) :
    resume v o s = State.completed { s with
      win := ⟨Config.freeWinSz s.nonce, Config.freeWinInc s.nonce, Config.freeWinA s.nonce,
        Config.freeWinDone s.nonce, Config.freeWinUnits s.nonce⟩
      nonce := s.nonce + 1
      port := { s.port with rspCount := s.win.done * 2 ^ s.win.sz.toNat } } .memoryFault := by
  have hresume : resume v o s = finish .memoryFault (setRspCount (confirmedBytes s) s) := by
    simp only [resume, hc]
    rfl
  have hmem : (setRspCount (confirmedBytes s) s).cont.isMem = true := by simp [hc, Cont.isMem]
  rw [hresume, finish_eq, if_pos hmem, confirmedBytes, unitBytes_eq_two_pow]
  rfl

/-- Settles O59: the acknowledges and the flush as their own statements have them, then what the transfer does with the
outcome. -/
theorem memFaultPath : Obligations.MemFaultPath := by
  refine ⟨fun s rd p hst hc hp => ?begins, fun s rd hc => ?ends⟩
  case begins =>
    exact (ackFaultLatches s hst (by simp [hc])).trans (congrArg Host.Outcome.next (resume_mem_fault hc hp))
  case ends =>
    have hscan : s.cont ≠ .scan := by simp [hc]
    refine ⟨fun hst => ?flush, fun hst hv => ?ackOk, fun hst => ?ackFault⟩
    case flush =>
      exact ((flushCompletes s hst).1 hscan).trans
        (congrArg Host.Outcome.next (resume_mem_abort (rd := rd) (by exact hc) _ _))
    case ackOk =>
      exact ((ackOkProceeds s hst).2.1 hscan hv).trans
        (congrArg Host.Outcome.next (resume_mem_abort (rd := rd) (by exact hc) _ _))
    case ackFault =>
      exact (ackFaultLatches s hst hscan).trans
        (congrArg Host.Outcome.next (resume_mem_abort (rd := rd) (by exact hc) _ _))

end Sys2Proof.Machine

/-! ### The DP-level commands: one access after the cache effects of R165, or the pipelined two (R143, R160 to R165) -/

namespace Sys2Proof.Machine

/-! #### How each begins and ends -/

section
variable {s : State}

/-- An idle engine runs a command from where it begins. -/
theorem exec_begun {i : Instr} {b : State} (hi : i.isCommand = true) (hst : s.stage = .idle)
    (hbegin : commandBegin i s = b) : exec i s = launch b := by
  rw [exec_command hi, onIdle_eq _ hst, hbegin]

theorem exec_lowAccessRd (hst : s.stage = .idle) (hv : s.dp.valid = true) : exec .lowAccessRd s =
    launch (beginAccess true s.argReg s.port.argValue .lowAccess (rawCacheEffects s.argReg false s.port.argValue s)) :=
  exec_begun rfl hst (if_pos hv)

theorem exec_lowAccessWr (hst : s.stage = .idle) (hv : s.dp.valid = true) : exec .lowAccessWr s =
    launch (beginAccess false s.argReg s.port.argValue .lowAccess (rawCacheEffects s.argReg true s.port.argValue s)) :=
  exec_begun rfl hst (if_pos hv)

theorem exec_dpRead (hst : s.stage = .idle) (hv : s.dp.valid = true) : exec .dpRead s =
    launch (beginAccess true s.argReg 0 (if isAp s.argReg then .dpReadFirst else .dpRead)
      (rawCacheEffects s.argReg false 0 s)) :=
  exec_begun rfl hst (if_pos hv)

theorem exec_dpWrite (hst : s.stage = .idle) (hv : s.dp.valid = true) : exec .dpWrite s =
    launch (beginAccess false s.argReg s.port.argValue .dpWrite (rawCacheEffects s.argReg true s.port.argValue s)) :=
  exec_begun rfl hst (if_pos hv)

theorem exec_dpAbort (hst : s.stage = .idle) (hv : s.dp.valid = true) : exec .dpAbort s =
    launch (beginAccess false 0x000 s.port.argValue .dpAbort (rawCacheEffects 0x000 true s.port.argValue s)) :=
  exec_begun rfl hst (if_pos hv)
end

section
variable (v : Word) (o : AccessOutcome) (t : State)

/-- The command returns `v` (R143, R160). -/
def State.returning (t : State) (v : Word) : State := { t with port := { t.port with rspValue := v } }

theorem resume_lowAccess : resume v o (t.setCont .lowAccess) = (t.returning v).completed .ok :=
  finish_eq_completed (s := setRspValue v (t.setCont .lowAccess)) rfl .ok

theorem resume_dpRead : resume v o (t.setCont .dpRead) = (t.returning v).completed .ok :=
  finish_eq_completed (s := setRspValue v (t.setCont .dpRead)) rfl .ok

/-- DP_READ ends with 0 where its first access is not served, pipelined or not (R160). -/
theorem resume_dpRead_failed {o : AccessOutcome} (ho : o ≠ .ok) (addr : BitVec 9) :
    resume 0 o (t.setCont (if isAp addr then .dpReadFirst else .dpRead)) = (t.returning 0).completed .ok := by
  split
  · exact (if_neg ho).trans (finish_eq_completed (s := setRspValue 0 (t.setCont .dpReadFirst)) rfl .ok)
  · exact resume_dpRead 0 o t

/-- The first access of a pipelined read drops its value and reads RDBUFF (R160, R161). -/
theorem resume_dpReadFirst_ok : resume v .ok (t.setCont .dpReadFirst) = beginAccess true 0x00C 0 .dpRead t := rfl

theorem resume_dpWrite : resume v o (t.setCont .dpWrite) = t.completed .ok :=
  finish_eq_completed (s := t.setCont .dpWrite) rfl .ok

theorem resume_dpAbort : resume v o (t.setCont .dpAbort) = t.completed .ok :=
  finish_eq_completed (s := t.setCont .dpAbort) rfl .ok
end

/-! #### The cache effects of R165 touch no call, no answer, no register of the host -/

section
variable (addr : BitVec 9) (w : Bool) (v : Word) (s : State)

@[simp] theorem rawCacheEffects_fault : (rawCacheEffects addr w v s).dp.fault = s.dp.fault :=
  (rawCacheEffects_kept addr w v s).latch
@[simp] theorem rawCacheEffects_variant : (rawCacheEffects addr w v s).dp.variant = s.dp.variant :=
  (rawCacheEffects_kept addr w v s).link
@[simp] theorem rawCacheEffects_cfg : (rawCacheEffects addr w v s).cfg = s.cfg := (rawCacheEffects_quiet addr w v s).cfg
@[simp] theorem rawCacheEffects_tapIn : (rawCacheEffects addr w v s).tapIn = s.tapIn :=
  (rawCacheEffects_quiet addr w v s).tapIn
@[simp] theorem rawCacheEffects_clkIn : (rawCacheEffects addr w v s).clkIn = s.clkIn :=
  (rawCacheEffects_quiet addr w v s).clkIn
@[simp] theorem rawCacheEffects_port : (rawCacheEffects addr w v s).port = s.port := by
  unfold rawCacheEffects
  repeat' split
  all_goals rfl

/-- Before the access of an AP register every AP's caches are dropped (R165). -/
theorem rawCacheEffects_ap (ha : isAp addr = true) : rawCacheEffects addr w v s =
    { s with aps := ApTable.map (fun p => { p with cswCache := none, tarCache := none }) s.aps } :=
  if_pos ha
end

/-! #### One access after the cache effects -/

section
variable {s t u : State} {i : Instr} {addr : BitVec 9} {rnw w : Bool} {wval v val now : Word} {k : Cont}
  {tap : List TapReply} {clk : List Word}

/-- A command whose chain of moves ends with a returned value is complete there. -/
theorem exec_returns {b : State} (hexec : exec i s = launch b) (hrun : Runs b u)
    (hend : u = (t.returning v).completed .ok) (hport : t.port = s.port) :
    exec i s = .next ({ t with port := { s.port with rspValue := v } }.completed .ok) := by
  rw [hend] at hrun
  rw [hexec, launch_of_runs hrun rfl, State.returning, hport]

/-- A command whose chain of moves ends without a value is complete there. -/
theorem exec_completes {b : State} (hexec : exec i s = launch b) (hrun : Runs b u) (hend : u = t.completed .ok) :
    exec i s = .next (t.completed .ok) := by
  rw [hend] at hrun
  rw [hexec, launch_of_runs hrun rfl]

/-- The access is served OK (R132, R133, R134). -/
theorem runs_raw_ok (hk : k ≠ .scan) (hf : ¬ (isAp addr = true ∧ s.dp.fault = true)) (hclk : s.clkIn = now :: clk)
    (hs : servesOk s.dp.variant s.cfg rnw val s.tapIn tap) :
    Runs (beginAccess rnw addr wval k (rawCacheEffects addr w v s))
      (resume val .ok (((rawCacheEffects addr w v s).afterOk rnw addr wval tap clk).setCont k)) :=
  runs_access_ok hk (by simpa using hf) (by simpa using hclk) (by simpa using hs)

/-- The access is answered FAULT (R137). -/
theorem runs_raw_fault (hk : k ≠ .scan) (hf : ¬ (isAp addr = true ∧ s.dp.fault = true))
    (hfl : s.cfg.flushOnNonOk = false) (hclk : s.clkIn = now :: clk)
    (hs : servesFault s.dp.variant s.cfg s.tapIn tap) :
    Runs (beginAccess rnw addr wval k (rawCacheEffects addr w v s))
      (resume 0 .fault (((rawCacheEffects addr w v s).afterFault rnw addr wval tap clk).setCont k)) :=
  runs_access_fault hk (by simpa using hf) (by simpa using hfl) (by simpa using hclk) (by simpa using hs)

/-- The access of an AP register on a latched fault: no call, and `fsm` passes through Faulted (R131). -/
def State.afterSkip (s : State) : State := { s with
  aps := ApTable.map (fun p => { p with cswCache := none, tarCache := none }) s.aps
  fsm := .idle, fsmLog := .idle :: .faulted :: s.fsmLog, t0 := Config.freeT0 s.nonce, nonce := s.nonce + 1 }

/-- A command whose access is short-circuited is complete where `low_access` returns to it (R131, R165). -/
theorem exec_skipped (ha : isAp addr = true) (hf : s.dp.fault = true)
    (hexec : exec i s = launch (beginAccess rnw addr wval k (rawCacheEffects addr w v s)))
    (hend : resume 0 .skipped (s.afterSkip.setCont k) = u.completed .ok) : exec i s = .next (u.completed .ok) := by
  have hskip : Steps 1 (beginAccess rnw addr wval k (rawCacheEffects addr w v s))
      (resume 0 .skipped (s.afterSkip.setCont k)) := by
    rw [rawCacheEffects_ap _ _ _ _ ha]
    exact steps_access_skip ha hf
  have hquiet := resume_quiet 0 .skipped (s.afterSkip.setCont k)
  have hfuel : 1 + 8 * (u.completed .ok).answers ≤ 8 * s.answers + 8 := by
    rw [← hend, State.answers, hquiet.tapIn, hquiet.clkIn]
    show 1 + 8 * s.answers ≤ _
    omega
  rw [hend] at hskip
  refine hexec.trans (launch_of_steps hskip ?_ (.refl _) rfl)
  simpa [State.answers] using hfuel
end

/-! #### The statements -/

/-- Settles O46: each command's access is short-circuited, and the command ends where it returns. -/
theorem skippedCommands : Obligations.SkippedCommands := by
  intro s hst hv hf ha
  refine ⟨fun i hi => ?_, exec_skipped ha hf (exec_dpWrite hst hv) (resume_dpWrite 0 _ _)⟩
  simp only [List.mem_cons, List.not_mem_nil, or_false] at hi
  rcases hi with rfl | rfl | rfl
  · exact exec_skipped ha hf (exec_lowAccessRd hst hv) (resume_lowAccess 0 _ _)
  · exact exec_skipped ha hf (exec_lowAccessWr hst hv) (resume_lowAccess 0 _ _)
  · exact exec_skipped ha hf (exec_dpRead hst hv) (resume_dpRead_failed (o := .skipped) _ nofun _)

/-- Settles O49: each command's access is served, and the command ends where it returns. -/
theorem singleAccessCommands : Obligations.SingleAccessCommands := by
  intro s now val clk tap hst hv hclk
  refine ⟨fun hf hserved => ?lowAccessRd, fun hf hserved => ⟨?lowAccessWr, ?dpWrite⟩, fun hserved => ?dpAbort⟩
  case lowAccessRd =>
    exact exec_returns (exec_lowAccessRd hst hv) (runs_raw_ok nofun hf hclk hserved) (resume_lowAccess _ _ _)
      (rawCacheEffects_port _ _ _ s)
  case lowAccessWr =>
    exact exec_returns (exec_lowAccessWr hst hv) (runs_raw_ok nofun hf hclk hserved) (resume_lowAccess _ _ _)
      (rawCacheEffects_port _ _ _ s)
  case dpWrite =>
    exact exec_completes (exec_dpWrite hst hv) (runs_raw_ok nofun hf hclk hserved) (resume_dpWrite _ _ _)
  case dpAbort =>
    exact exec_completes (exec_dpAbort hst hv)
      (runs_raw_ok nofun (not_shortCircuited_of_dp rfl s) hclk hserved) (resume_dpAbort _ _ _)

/-- The position of DP_READ is that of a `low_access`. -/
theorem dpRead_cont_ne_scan (addr : BitVec 9) : (if isAp addr then Cont.dpReadFirst else .dpRead) ≠ .scan := by
  split <;> nofun

/-- Settles O51: a FAULT on the first access ends each command where it returns; on RDBUFF it ends the pipelined read. -/
theorem faultedDpCommands : Obligations.FaultedDpCommands := by
  intro s now clk tap hst hv hfl
  refine ⟨fun hf hclk hfault => ⟨?dpRead, ?lowAccessRd, ?lowAccessWr, ?dpWrite⟩, fun hclk hfault => ?dpAbort,
    fun now' mid stale ha hf hclk hserved hfault => ?rdbuff⟩
  case dpRead =>
    exact exec_returns (exec_dpRead hst hv) (runs_raw_fault (dpRead_cont_ne_scan _) hf hfl hclk hfault)
      (resume_dpRead_failed (o := .fault) _ nofun _) (rawCacheEffects_port _ _ _ s)
  case lowAccessRd =>
    exact exec_returns (exec_lowAccessRd hst hv) (runs_raw_fault nofun hf hfl hclk hfault) (resume_lowAccess _ _ _)
      (rawCacheEffects_port _ _ _ s)
  case lowAccessWr =>
    exact exec_returns (exec_lowAccessWr hst hv) (runs_raw_fault nofun hf hfl hclk hfault) (resume_lowAccess _ _ _)
      (rawCacheEffects_port _ _ _ s)
  case dpWrite =>
    exact exec_completes (exec_dpWrite hst hv) (runs_raw_fault nofun hf hfl hclk hfault) (resume_dpWrite _ _ _)
  case dpAbort =>
    exact exec_completes (exec_dpAbort hst hv)
      (runs_raw_fault nofun (not_shortCircuited_of_dp rfl s) hfl hclk hfault) (resume_dpAbort _ _ _)
  case rdbuff =>
    have hfirst : Runs (beginAccess true s.argReg 0 (if isAp s.argReg then .dpReadFirst else .dpRead)
        (rawCacheEffects s.argReg false 0 s))
        (beginAccess true 0x00C 0 .dpRead
          ((rawCacheEffects s.argReg false 0 s).afterOk true s.argReg 0 mid (now' :: clk))) := by
      rw [if_pos (show isAp s.argReg = true from ha), ← resume_dpReadFirst_ok stale]
      exact runs_raw_ok nofun (by simp [hf]) hclk hserved
    have hrdbuff := runs_access_fault (k := .dpRead) (rnw := true) (addr := 0x00C) (wval := 0)
      (s := (rawCacheEffects s.argReg false 0 s).afterOk true s.argReg 0 mid (now' :: clk)) (tap := tap) (by simp)
      (not_shortCircuited_of_dp rfl _) (by simpa [State.afterOk, State.afterCalls] using hfl) rfl
      (by simpa [State.afterOk, State.afterCalls] using hfault)
    exact exec_returns (exec_dpRead hst hv) (hfirst.trans hrdbuff) (resume_dpRead _ _ _)
      (rawCacheEffects_port _ _ _ s)

end Sys2Proof.Machine

/-! ### AP_READ and AP_WRITE answered FAULT (R137, R160, R180 to R183) -/

namespace Sys2Proof.Machine

/-! #### SELECT, and the access it is written for -/

section
variable {s u : State}

/-- Once SELECT names the AP, whether cached or written, the AP access is issued (R180, R181). -/
theorem runs_selects (use : ApUse) (h : s.selects (use.select s) (bankOf (use.reg s)) u) :
    Runs (apAccess use s) (apIssue use u) := by
  rcases h with ⟨hhit, rfl⟩ | ⟨hmiss, now, clk, mid, hclk, hserved, rfl⟩
  · rw [apAccess, ensureSelect_hit _ hhit]
    exact .refl _
  · rw [apAccess, ensureSelect_miss _ hmiss]
    have hwrite := runs_access_ok (k := .ap use .select) (addr := Config.dpSelect)
      (wval := selectValue (use.select s) (bankOf (use.reg s))) nofun (not_shortCircuited_of_dp rfl s) hclk hserved
    cases use <;> exact hwrite

/-- SELECT leaves the latch, the configuration and the registers of the host as they are (R180). -/
theorem selects_frame {i : Byte} {b : BitVec 4} (h : s.selects i b u) :
    u.dp.fault = s.dp.fault ∧ u.dp.variant = s.dp.variant ∧ u.cfg = s.cfg ∧ u.port = s.port := by
  rcases h with ⟨-, rfl⟩ | ⟨-, -, -, -, -, -, rfl⟩ <;> exact ⟨rfl, rfl, rfl, rfl⟩

/-- AP_READ begins with its `ap_access` (R181). -/
theorem exec_apRead (hst : s.stage = .idle) (hv : s.dp.valid = true) (hp : s.apPresent s.port.argAp = true)
    (hf : s.dp.fault = false) : exec .apRead s = launch (apAccess .read s) := by
  refine exec_begun rfl hst ?_
  simp [commandBegin, beginApRead, needAp, needDp, hv, hp, hf]

/-- AP_WRITE begins with its `ap_access` (R182). -/
theorem exec_apWrite (hst : s.stage = .idle) (hv : s.dp.valid = true) (hp : s.apPresent s.port.argAp = true)
    (hf : s.dp.fault = false) : exec .apWrite s = launch (apAccess .write s) := by
  refine exec_begun rfl hst ?_
  simp [commandBegin, beginApWrite, needAp, needDp, hv, hp, hf]
end

/-! #### What a FAULT leaves -/

section
variable {t : State} {i : Byte}

/-- An AP access that is not served drops both caches of its AP (R183). -/
def State.apDropped (t : State) (i : Byte) : State := setTarCache i none (setCswCache i none t)

/-- A FAULT on an access of AP_READ but the SELECT write: no further access, the value 0 (R160, R181, R183). -/
theorem resume_apRead_fault {p : ApPos} (hp : p ≠ .select) (hi : t.port.argAp = i) :
    resume 0 .fault (t.setCont (.ap .read p)) = ((t.apDropped i).returning 0).completed .ok := by
  subst hi
  have hend : apDone .read 0 .fault (t.setCont (.ap .read p)) =
      ((t.apDropped t.port.argAp).returning 0).completed .ok :=
    finish_eq_completed (s := setRspValue 0 ((t.setCont (.ap .read p)).apDropped t.port.argAp)) rfl .ok
  cases p with
  | select => exact absurd rfl hp
  | first => exact hend
  | last => exact hend

/-- A FAULT on the write of AP_WRITE (R182, R183). -/
theorem resume_apWrite_fault (hi : t.port.argAp = i) :
    resume 0 .fault (t.setCont (.ap .write .last)) = (t.apDropped i).completed .ok := by
  subst hi
  exact finish_eq_completed (s := (t.setCont (.ap .write .last)).apDropped t.port.argAp) rfl .ok

/-- A FAULT on the SELECT write of AP_READ: the SELECT cache is dropped, no AP access follows (R180, R181). -/
theorem resume_apRead_select_fault (hi : t.port.argAp = i) :
    resume 0 .fault (t.setCont (.ap .read .select)) =
      (((setSelCache none t).apDropped i).returning 0).completed .ok := by
  subst hi
  exact finish_eq_completed
    (s := setRspValue 0 (((setSelCache none t).setCont (.ap .read .select)).apDropped t.port.argAp)) rfl .ok

/-- A FAULT on the SELECT write of AP_WRITE (R180, R182). -/
theorem resume_apWrite_select_fault (hi : t.port.argAp = i) :
    resume 0 .fault (t.setCont (.ap .write .select)) = ((setSelCache none t).apDropped i).completed .ok := by
  subst hi
  exact finish_eq_completed (s := ((setSelCache none t).setCont (.ap .write .select)).apDropped t.port.argAp) rfl .ok
end

/-! #### The accesses of AP_READ and AP_WRITE -/

section
variable {s u : State} {now : Word} {clk : List Word} {tap : List TapReply}

/-- The SELECT write of an `ap_access` answered FAULT (R137, R180). -/
theorem runs_select_fault (use : ApUse) (hmiss : s.dp.selCache ≠ some (use.select s, bankOf (use.reg s)))
    (hfl : s.cfg.flushOnNonOk = false) (hclk : s.clkIn = now :: clk)
    (hfault : servesFault s.dp.variant s.cfg s.tapIn tap) :
    Runs (apAccess use s) (resume 0 .fault
      ((s.afterFault false 0x008 (selectValue (use.select s) (bankOf (use.reg s))) tap clk).setCont
        (.ap use .select))) := by
  have hwrite := runs_access_fault (k := .ap use .select) (rnw := false) (addr := Config.dpSelect)
    (wval := selectValue (use.select s) (bankOf (use.reg s))) nofun (not_shortCircuited_of_dp rfl s) hfl hclk hfault
  rw [apAccess, ensureSelect_miss _ hmiss]
  exact hwrite

/-- The AP access of AP_READ, at the register that the host has named (R181). -/
theorem apIssue_read (hport : u.port = s.port) : apIssue .read u =
    beginAccess true (0x100 ||| (s.port.argAddr.setWidth 8 : Byte).setWidth 9) 0 (.ap .read .first) u := by
  rw [← hport]
  rfl

/-- The AP access of AP_WRITE (R182). -/
theorem apIssue_write (hport : u.port = s.port) : apIssue .write u =
    beginAccess false (0x100 ||| (s.port.argAddr.setWidth 8 : Byte).setWidth 9) s.port.argValue (.ap .write .last) u := by
  rw [← hport]
  rfl

/-- After the first access of AP_READ is served its value is dropped and RDBUFF is read (R160, R181). -/
theorem resume_apRead_first (stale : Word) (t : State) :
    resume stale .ok (t.setCont (.ap .read .first)) = beginAccess true 0x00C 0 (.ap .read .last) t := rfl
end

/-- Settles O55: the FAULT ends each command at the access it answers: SELECT, the AP access, RDBUFF. -/
theorem apCommandsFaulted : Obligations.ApCommandsFaulted := by
  intro s now clk tap hst hv hp hf hfl i reg bank addr dropped zero
  refine ⟨fun hmiss hclk hfault => ?select, fun u hsel hclk hfault => ?access,
    fun u now' mid stale hsel hclk hserved hfault => ?rdbuff⟩
  case select =>
    exact ⟨(exec_returns (exec_apRead hst hv hp hf) (runs_select_fault .read hmiss hfl hclk hfault)
        (resume_apRead_select_fault rfl) rfl :),
      (exec_completes (exec_apWrite hst hv hp hf) (runs_select_fault .write hmiss hfl hclk hfault)
        (resume_apWrite_select_fault rfl) :)⟩
  case access =>
    obtain ⟨hlatch, hlink, hcfg, hport⟩ := selects_frame hsel
    have hgo : ¬ (isAp addr = true ∧ u.dp.fault = true) := by simp [hlatch, hf]
    have hflush : u.cfg.flushOnNonOk = false := hcfg ▸ hfl
    have hfault : servesFault u.dp.variant u.cfg u.tapIn tap := by rwa [hlink, hcfg]
    have hread := (runs_selects .read hsel).trans
      (apIssue_read hport ▸ runs_access_fault (k := .ap .read .first) nofun hgo hflush hclk hfault)
    have hwrite := (runs_selects .write hsel).trans
      (apIssue_write hport ▸ runs_access_fault (k := .ap .write .last) nofun hgo hflush hclk hfault)
    have hi : u.port.argAp = i := congrArg HostPort.argAp hport
    exact ⟨(exec_returns (exec_apRead hst hv hp hf) hread (resume_apRead_fault nofun hi) hport :),
      (exec_completes (exec_apWrite hst hv hp hf) hwrite (resume_apWrite_fault hi) :)⟩
  case rdbuff =>
    obtain ⟨hlatch, hlink, hcfg, hport⟩ := selects_frame hsel
    have hgo : ¬ (isAp addr = true ∧ u.dp.fault = true) := by simp [hlatch, hf]
    have hserved : servesOk u.dp.variant u.cfg true stale u.tapIn mid := by rwa [hlink, hcfg]
    have hfault : servesFault u.dp.variant u.cfg mid tap := by rwa [hlink, hcfg]
    have hfirst := runs_access_ok (wval := 0) (k := .ap .read .first) nofun hgo hclk hserved
    rw [resume_apRead_first] at hfirst
    have hrdbuff := runs_access_fault (s := u.afterOk true addr 0 mid (now' :: clk)) (rnw := true) (addr := 0x00C)
      (wval := 0) (k := .ap .read .last) nofun (not_shortCircuited_of_dp rfl _) (hcfg ▸ hfl) rfl hfault
    have hread := (runs_selects .read hsel).trans (apIssue_read hport ▸ hfirst.trans hrdbuff)
    exact (exec_returns (exec_apRead hst hv hp hf) hread
      (resume_apRead_fault nofun (congrArg HostPort.argAp hport)) hport :)

end Sys2Proof.Machine

/-! ### Retries (R134, R135, R136, R146) -/

namespace Sys2Proof.Machine

/-! #### One attempt, from its request to the reaction to its acknowledge -/

/-- The calls of an attempt before the acknowledge is taken, in order (R132, R133). -/
def sentCalls (v : Variant) (c : Config) (x : Access) : List TapCall :=
  match v with
  | .swd => [.seqOut (x.request.setWidth 32) 8]
  | .jtag => attemptCalls .jtag c x.rnw x.addr x.wval

/-- `s` once its attempt is sent and the acknowledge is at hand, with the data that came with it (R132, R133). -/
def State.sent (s : State) (value : Word) (tap : List TapReply) : State := { s with
  trace := (sentCalls s.dp.variant s.cfg s.acc).reverse ++ s.trace
  fsm := .requestSent
  fsmLog := .requestSent :: s.fsmLog
  acc := { s.acc with value := value }
  tapIn := tap
  stage := .ack }

section
variable {s : State} {r : TapReply} {rest : List TapReply}

/-- An attempt over SWD: two moves, one answer (R132). -/
theorem steps_sent_swd (hst : s.stage = .request) (hc : s.cont ≠ .scan) (hv : s.dp.variant = .swd)
    (ht : s.tapIn = r :: rest) : Steps 2 s (react r.ack (s.sent s.acc.value rest)) := by
  have hw : s.wire = .swd := by rw [wire_of_not_scan hc, hv]
  refine Steps.cons (linkStep_request_swd hst hw) (Steps.one ?_)
  have hack := linkStep_ack_swd (s := sendRequest s.acc.request s) (r := r) (rest := rest)
  rw [sendRequest_eq hc] at hack ⊢
  refine (hack rfl hw ht).trans ?_
  refine congrArg (fun t => Host.Outcome.next (react r.ack t)) ?_
  apply State.ext <;> simp [State.sent, sentCalls, hv]

/-- An attempt over JTAG, with `JTAG_POSTED` or without (R133, U11). -/
theorem steps_sent_jtag (hst : s.stage = .request) (hc : s.cont ≠ .scan) (hv : s.dp.variant = .jtag)
    (hs : scansGive s.cfg r s.tapIn rest) :
    ∃ k, Steps k s (react (jtagAck s.cfg r.ack) (s.sent r.scanData rest)) ∧
      k + 6 + 8 * rest.length ≤ 8 * s.tapIn.length := by
  obtain ⟨k, hk, hcount⟩ := steps_attempt_jtag hst hc hv hs
  have hw : (s.attempted (r :: rest)).wire = .jtag := by rw [wire_of_not_scan (by simpa using hc)]; simpa using hv
  have hack := linkStep_ack_jtag (attempted_stage s _) hw (attempted_tapIn s _)
  refine ⟨k + 1, hk.trans (Steps.one (hack.trans ?_)), by omega⟩
  refine congrArg (fun t => Host.Outcome.next (react (jtagAck s.cfg r.ack) t)) ?_
  apply State.ext <;> simp [State.sent, State.attempted, sentCalls, hv, TapReply.scanData]

/-- An attempt on either link, whatever its acknowledge stands for. -/
theorem steps_sent {code : BitVec 3} (hst : s.stage = .request) (hc : s.cont ≠ .scan)
    (hs : servesAck s.dp.variant s.cfg code s.tapIn rest) :
    ∃ k value, Steps k s (react code (s.sent value rest)) ∧ k + 6 + 8 * rest.length ≤ 8 * s.tapIn.length := by
  cases hv : s.dp.variant with rw [hv] at hs
  | swd =>
    obtain ⟨r, htap, rfl⟩ := hs
    exact ⟨2, s.acc.value, steps_sent_swd hst hc hv htap, by simp [htap]; omega⟩
  | jtag =>
    obtain ⟨r, htap, rfl⟩ := hs
    obtain ⟨k, hk, hcount⟩ := steps_sent_jtag hst hc hv htap
    exact ⟨k, r.scanData, hk, hcount⟩
end

/-! #### An attempt answered WAIT -/

/-- `s` once its attempt is answered WAIT and the clock is to be read (R135). -/
def State.waited (s : State) (value : Word) (tap : List TapReply) : State := { s with
  trace := (attemptCalls s.dp.variant s.cfg s.acc.rnw s.acc.addr s.acc.wval).reverse ++ s.trace
  fsm := .retrying
  fsmLog := .retrying :: .requestSent :: s.fsmLog
  acc := { s.acc with value := value }
  tapIn := tap
  stage := .ack }

/-- `s` at its request again, after `n` attempts answered WAIT within the window: each has been followed by a clock
reading (R135). -/
def State.retried (s : State) (n : Nat) (f : Fsm) (value : Word) (tap : List TapReply) (clk : List Word) : State :=
  { s with
    trace := (List.replicate n (attemptCalls s.dp.variant s.cfg s.acc.rnw s.acc.addr s.acc.wval ++
      retryCalls s.dp.variant s.cfg s.acc.addr)).flatten.reverse ++ s.trace
    fsm := f
    fsmLog := (List.replicate n [Fsm.requestSent, .retrying]).flatten.reverse ++ s.fsmLog
    acc := { s.acc with value := value }
    tapIn := tap
    clkIn := clk }

theorem retried_retried (s : State) (n : Nat) (f f' : Fsm) (v v' : Word) (tap tap' : List TapReply)
    (clk clk' : List Word) :
    (s.retried 1 f v tap clk).retried n f' v' tap' clk' = s.retried (n + 1) f' v' tap' clk' := by
  apply State.ext <;> simp [State.retried, List.replicate_succ]

section
variable {s : State} {rest : List TapReply} {clk : List Word} {now : Word}

/-- WAIT outside DP_SCAN, with no flush after it: the clock decides (R95, R135). -/
theorem acceptWait_sent (hc : s.cont ≠ .scan) (hfl : s.cfg.flushOnNonOk = false) (value : Word) :
    acceptWait (s.sent value rest) = retryOrTimeout (s.waited value rest) := by
  have hw : (s.sent value rest).wire = s.dp.variant := wire_of_not_scan hc
  have hquiet : (s.sent value rest).nonOkCalls = [] := by
    rw [State.nonOkCalls, if_neg]
    rintro ⟨hflush, -⟩
    exact absurd (hfl.symm.trans hflush) Bool.noConfusion
  have hcalls : (s.sent value rest).ackCalls.reverse ++ (s.sent value rest).trace =
      (attemptCalls s.dp.variant s.cfg s.acc.rnw s.acc.addr s.acc.wval).reverse ++ s.trace := by
    rw [State.ackCalls, hw]
    cases hv : s.dp.variant <;> simp [State.sent, sentCalls, attemptCalls, Access.request, hv]
  rw [acceptWait_retries (s := s.sent value rest) hc, hquiet, List.append_nil, hcalls]
  rfl

/-- A WAIT below the bound: the engine is at its request again (R135), with `JTAG_POSTED` after one more load of the
instruction register where the access is AP-addressed (log 21). -/
theorem runs_retry (hst : s.stage = .request) (hc : s.cont ≠ .scan) (hfl : s.cfg.flushOnNonOk = false)
    (hclk : s.clkIn = now :: clk) (hlt : (now - s.t0).toNat < s.cfg.waitTimeoutMs.toNat)
    (hs : servesAck s.dp.variant s.cfg 0b010 s.tapIn rest) :
    ∃ value, Runs s (s.retried 1 .retrying value rest clk) := by
  obtain ⟨k, value, hk, hcount⟩ := steps_sent hst hc hs
  rw [react_wait, acceptWait_sent hc hfl, retryOrTimeout_below (s := s.waited value rest) hclk hlt] at hk
  have hw : (s.waited value rest).wire = s.dp.variant := wire_of_not_scan hc
  refine ⟨value, ?_⟩
  by_cases hreload : s.dp.variant = .jtag ∧ s.cfg.jtagPosted = true ∧ isAp s.acc.addr = true
  · obtain ⟨hv, hposted, hap⟩ := hreload
    have hstage : retryStage (s.waited value rest) = .reloadIr :=
      if_pos ⟨hposted, hw.trans hv, hap⟩
    rw [hstage] at hk
    have hload := linkStep_reloadIr (s := { s.waited value rest with
      trace := .nowMs :: (s.waited value rest).trace, clkIn := clk, stage := .reloadIr }) rfl
    have hend : loadIr (irCode s.acc.addr) { s.waited value rest with
        trace := .nowMs :: (s.waited value rest).trace, clkIn := clk, stage := .reloadIr } =
        s.retried 1 .retrying value rest clk := by
      apply State.ext <;>
        simp [loadIr, afterIr, State.waited, State.retried, retryCalls, irCode, hst, hv, hposted, hap, Config.irApacc]
    refine runs_of_steps (hk.trans (Steps.one (hload.trans (congrArg _ hend)))) (tap := rest) (clk := clk) ⟨rfl, rfl⟩ ?_
    simp [State.answers, hclk]
    omega
  · have hstage : retryStage (s.waited value rest) = .request :=
      if_neg fun ⟨hposted, hv, hap⟩ => hreload ⟨hw.symm.trans hv, hposted, hap⟩
    have hend : { s.waited value rest with
        trace := .nowMs :: (s.waited value rest).trace, clkIn := clk, stage := .request } =
        s.retried 1 .retrying value rest clk := by
      apply State.ext <;> simp [State.waited, State.retried, retryCalls, hst, hreload]
    rw [hstage, hend] at hk
    refine runs_of_steps hk (tap := rest) (clk := clk) ⟨rfl, rfl⟩ ?_
    simp [State.answers, hclk]
    omega

/-- A WAIT at or past the bound raises Timeout (R136, R268). -/
theorem runs_timeout {v : Variant} {c : Config} {rnw : Bool} {addr : BitVec 9} {wval value : Word}
    (hst : s.stage = .request) (hc : s.cont ≠ .scan) (hm : s.cont.isMem = false) (hv : s.dp.variant = v)
    (hcfg : s.cfg = c) (hacc : s.acc = ⟨rnw, addr, wval, value⟩) (hfl : c.flushOnNonOk = false)
    (hclk : s.clkIn = now :: clk) (hle : c.waitTimeoutMs.toNat ≤ (now - s.t0).toNat)
    (hs : servesAck v c 0b010 s.tapIn rest) :
    Runs s ((invalidateAll (s.afterCalls (attemptCalls v c rnw addr wval ++ [.nowMs])
      [.requestSent, .retrying, .timeoutError, .idle] rest clk)).completed .timeout) := by
  subst hv hcfg
  obtain ⟨k, value', hk, hcount⟩ := steps_sent hst hc hs
  have hend : State.afterRaise { s.waited value' rest with
      trace := .nowMs :: (s.waited value' rest).trace, clkIn := clk } .timeout =
      (invalidateAll (s.afterCalls (attemptCalls s.dp.variant s.cfg rnw addr wval ++ [.nowMs])
        [.requestSent, .retrying, .timeoutError, .idle] rest clk)).completed .timeout := by
    apply State.ext
    case aps => rfl
    all_goals simp [State.afterRaise, State.waited, State.afterCalls, State.completed, Condition.fsm, Condition.status,
      hm, hacc]
  rw [react_wait, acceptWait_sent hc hfl, retryOrTimeout_past (s := s.waited value' rest) hclk hle, hend] at hk
  refine runs_of_steps hk (tap := rest) (clk := clk) ⟨rfl, rfl⟩ ?_
  simp [State.answers, hclk]
  omega

/-- Any number of attempts answered WAIT within the window (R135, R146). -/
theorem runs_retries {waits : List Word} {more : List TapReply} : ∀ {s : State}, s.stage = .request → s.cont ≠ .scan →
    s.cfg.flushOnNonOk = false → s.clkIn = waits ++ clk →
    (∀ now ∈ waits, (now - s.t0).toNat < s.cfg.waitTimeoutMs.toNat) →
    servesWaits s.dp.variant s.cfg waits.length s.tapIn more →
    ∃ f value, Runs s (s.retried waits.length f value more clk) := by
  induction waits with
  | nil =>
    rintro s hst hc hfl hclk - hs
    obtain rfl : s.tapIn = more := hs
    obtain rfl : s.clkIn = clk := hclk
    exact ⟨s.fsm, s.acc.value, .refl s⟩
  | cons now waits ih =>
    intro s hst hc hfl hclk hlt hs
    obtain ⟨mid, hwait, hwaits⟩ := hs
    obtain ⟨hnow, hlater⟩ := List.forall_mem_cons.mp hlt
    obtain ⟨value, hfirst⟩ := runs_retry hst hc hfl hclk hnow hwait
    obtain ⟨f, value', hrest⟩ := ih (s := s.retried 1 .retrying value mid (waits ++ clk)) hst hc hfl rfl hlater hwaits
    rw [retried_retried] at hrest
    exact ⟨f, value', hfirst.trans hrest⟩
end

/-! #### From the call of `low_access` to its first request, and from its last request to its return -/

/-- `s` at the first request of an access, its clock sampled (R132, R133). -/
def State.opened (s : State) (rnw : Bool) (addr : BitVec 9) (wval : Word) (k : Cont) (now : Word) (clk : List Word) :
    State :=
  { s with
    trace := (openingCalls s.dp.variant addr).reverse ++ s.trace
    clkIn := clk
    t0 := now
    acc := ⟨rnw, addr, wval, 0⟩
    cont := k
    stage := .request }

section
variable {s : State} {rnw : Bool} {addr : BitVec 9} {wval val now : Word} {k : Cont} {tap : List TapReply}
  {clk : List Word}

/-- The moves of an access up to its request, SWD: short-circuit test and clock (R132). -/
theorem steps_open_swd (hst : s.stage = .start) (hc : s.cont ≠ .scan)
    (hf : ¬ (isAp s.acc.addr = true ∧ s.dp.fault = true)) (hv : s.dp.variant = .swd) (hclk : s.clkIn = now :: clk) :
    Steps 2 s ((((logCall .nowMs s).setClkIn clk).setT0 now).setStage .request) := by
  refine Steps.cons (linkStep_start hst) ?_
  rw [startAccess_go hf hc, hv]
  refine Steps.one ((linkStep_clock (State.setStage_stage _ _) (by simpa using hclk)).trans ?_)
  rw [sampleT0_eq (clk := clk) (now := now) (by simpa using hclk)]
  rfl

/-- The moves of an access up to its first request, on either link (R131, R132, R133). -/
theorem runs_open (hk : k ≠ .scan) (hf : ¬ (isAp addr = true ∧ s.dp.fault = true)) (hclk : s.clkIn = now :: clk) :
    Runs (beginAccess rnw addr wval k s) (s.opened rnw addr wval k now clk) := by
  cases hv : s.dp.variant with
  | swd =>
    have hopen := steps_open_swd (s := beginAccess rnw addr wval k s) rfl hk hf hv hclk
    have hend : (((logCall .nowMs (beginAccess rnw addr wval k s)).setClkIn clk).setT0 now).setStage .request =
        s.opened rnw addr wval k now clk := by
      apply State.ext <;> simp [State.opened, openingCalls, hv]
    rw [hend] at hopen
    exact runs_of_steps hopen (tap := s.tapIn) (clk := clk) ⟨rfl, rfl⟩ (by simp [State.answers, hclk]; omega)
  | jtag =>
    have hopen := steps_open_jtag (s := beginAccess rnw addr wval k s) rfl hk hf hv hclk
    have hend : (((logCall .nowMs (logCall (.jtagIr (irCode addr)) (beginAccess rnw addr wval k s))).setClkIn clk).setT0
        now).setStage .request = s.opened rnw addr wval k now clk := by
      apply State.ext <;> simp [State.opened, openingCalls, hv]
    rw [beginAccess_acc, hend] at hopen
    exact runs_of_steps hopen (tap := s.tapIn) (clk := clk) ⟨rfl, rfl⟩ (by simp [State.answers, hclk]; omega)

/-- The data phase of a read with good parity, and the flush: the access returns the word (R132). -/
theorem steps_data_read {t : State} {d : TapReply} (hst : t.stage = .data) (hc : t.cont ≠ .scan)
    (hr : t.acc.rnw = true) (ht : t.tapIn = d :: tap) (hd : d.parityOk = true) :
    Steps 2 t (resume d.word .ok (forgetT0 (moveFsm .idle (logCall (.seqOut 0 8)
      (logCall (.seqInPar 32) (t.setTapIn tap)))))) := by
  refine Steps.cons (linkStep_data_good hst hr ht hd) (Steps.one ?_)
  refine (linkStep_flush_return (State.setStage_stage _ _) (by simpa using hc)).trans ?_
  simp only [State.setStage_acc, State.setAcc_acc]
  exact congrArg Host.Outcome.next (resume_congr (by apply State.ext <;> simp [State.moved]))

/-- The attempt of a read that is served OK, and the data phase: the access returns its value (R132, R133, R134). -/
theorem runs_read_ok {v : Variant} {c : Config} {value : Word} (hst : s.stage = .request) (hc : s.cont ≠ .scan)
    (hv : s.dp.variant = v) (hcfg : s.cfg = c) (hacc : s.acc = ⟨true, addr, wval, value⟩)
    (hs : servesOk v c true val s.tapIn tap) :
    Runs s (resume val .ok (s.afterCalls (attemptCalls v c true addr wval ++ dataCalls v true 0)
      [.requestSent, .dataPhase, .idle] tap s.clkIn)) := by
  subst hcfg
  have hr : s.acc.rnw = true := by rw [hacc]
  have hleft (v : Word) (o : AccessOutcome) (u : State) (hu : u.tapIn = tap ∧ u.clkIn = s.clkIn) :
      (resume v o u).tapIn = tap ∧ (resume v o u).clkIn = s.clkIn :=
    ⟨(resume_quiet v o u).tapIn.trans hu.1, (resume_quiet v o u).clkIn.trans hu.2⟩
  cases v with
  | swd =>
    obtain ⟨a, d, htap, ha, hd, rfl⟩ := hs
    have hsent := steps_sent_swd hst hc hv htap
    rw [ha, react_ok, acceptOk_swd (s := s.sent s.acc.value (d :: tap)) hc hv] at hsent
    have hdata := steps_data_read (t := (moveFsm .dataPhase (logCall (.seqIn 3)
      (s.sent s.acc.value (d :: tap)))).setStage .data) rfl hc hr rfl hd
    have hend : resume d.word .ok (forgetT0 (moveFsm .idle (logCall (.seqOut 0 8) (logCall (.seqInPar 32)
        (((moveFsm .dataPhase (logCall (.seqIn 3) (s.sent s.acc.value (d :: tap)))).setStage .data).setTapIn tap))))) =
        resume d.word .ok (s.afterCalls (attemptCalls .swd s.cfg true addr wval ++ dataCalls .swd true 0)
          [.requestSent, .dataPhase, .idle] tap s.clkIn) := by
      refine resume_congr ?_
      apply State.ext <;>
        simp [State.moved, State.sent, State.afterCalls, sentCalls, attemptCalls, dataCalls, Access.request, hacc, hv]
    rw [hend] at hdata
    exact runs_of_steps (hsent.trans hdata) (hleft _ _ _ ⟨rfl, rfl⟩) (by simp [State.answers, htap]; omega)
  | jtag =>
    obtain ⟨r, htap, ha, rfl⟩ := hs
    obtain ⟨k, hk, hcount⟩ := steps_sent_jtag hst hc hv htap
    rw [show jtagAck s.cfg r.ack = 0b001 from ha, react_ok, acceptOk_jtag (s := s.sent r.scanData tap) hc hv,
      returnAccess] at hk
    have hend : resume (if (s.sent r.scanData tap).acc.rnw then (s.sent r.scanData tap).acc.value else 0) .ok
        (forgetT0 (moveFsm .idle (moveFsm .dataPhase (s.sent r.scanData tap)))) =
        resume r.scanData .ok (s.afterCalls (attemptCalls .jtag s.cfg true addr wval ++
          dataCalls .jtag true 0) [.requestSent, .dataPhase, .idle] tap s.clkIn) := by
      rw [show (s.sent r.scanData tap).acc.rnw = true from hr]
      refine resume_congr ?_
      apply State.ext <;> simp [State.moved, State.sent, State.afterCalls, sentCalls, dataCalls, hacc, hv]
    rw [hend] at hk
    exact runs_of_steps hk (hleft _ _ _ ⟨rfl, rfl⟩) (by simp [State.answers]; omega)
end

/-! #### The statement -/

/-- From the call of `low_access` to the end of its last attempt, the attempts answered WAIT between: the calls, the
moves of `fsm` and the answers left, in one (R96, R135). -/
theorem opened_retried_afterCalls {s : State} {v : Variant} {c : Config} (hv : s.dp.variant = v) (hcfg : s.cfg = c)
    (addr : BitVec 9) (wval : Word) (k : Cont) (start : Word) (n : Nat) (f : Fsm) (value : Word)
    (more tap : List TapReply) (clk clk' later : List Word) (calls : List TapCall) (moves : List Fsm) :
    ((s.opened true addr wval k start clk').retried n f value more later).afterCalls calls moves tap clk =
      ((s.afterCalls (openingCalls v addr ++
        (List.replicate n (attemptCalls v c true addr wval ++ retryCalls v c addr)).flatten ++ calls)
        ((List.replicate n [Fsm.requestSent, .retrying]).flatten ++ moves) tap clk).setCont k).moved .request
          ⟨true, addr, wval, value⟩ := by
  subst hv hcfg
  apply State.ext <;> simp [State.moved, State.afterCalls, State.retried, State.opened]

/-- Settles O60: the clock is sampled, the attempts answered WAIT follow, then the one that is served or the one whose
reading is at or past the bound. -/
theorem boundedRetry : Obligations.BoundedRetry := by
  intro s start waits clk more tap hst hv hfl hf hbelow hwaits v s1 attempt calls moves
  have hlink : s1.dp.variant = v := rawCacheEffects_variant _ _ _ s
  have hcfg : s1.cfg = s.cfg := rawCacheEffects_cfg _ _ _ s
  have hretries (later : List Word) (hclk : s.clkIn = start :: waits ++ later) : ∃ f value,
      Runs (beginAccess true s.argReg s.port.argValue .lowAccess s1)
        ((s1.opened true s.argReg s.port.argValue .lowAccess start (waits ++ later)).retried waits.length f value more
          later) := by
    have hgo : ¬ (isAp s.argReg = true ∧ s1.dp.fault = true) := by
      rwa [show s1.dp.fault = s.dp.fault from rawCacheEffects_fault _ _ _ s]
    have hopen := runs_open (s := s1) (rnw := true) (wval := s.port.argValue) (k := .lowAccess) nofun hgo
      ((rawCacheEffects_clkIn _ _ _ s).trans hclk)
    obtain ⟨f, value, hruns⟩ := runs_retries (clk := later) (more := more) (waits := waits)
      (s := s1.opened true s.argReg s.port.argValue .lowAccess start (waits ++ later)) rfl nofun
      (by simpa [s1, State.opened] using hfl) rfl (by simpa [s1, State.opened] using hbelow)
      (by simpa [s1, State.opened] using hwaits)
    exact ⟨f, value, hopen.trans hruns⟩
  refine ⟨fun val hclk hserved => ?served, fun now hclk hwait hpast => ?timeout⟩
  case served =>
    obtain ⟨f, value, hruns⟩ := hretries clk hclk
    have hread := runs_read_ok (s := (s1.opened true s.argReg s.port.argValue .lowAccess start
      (waits ++ clk)).retried waits.length f value more clk) rfl nofun hlink hcfg rfl hserved
    rw [opened_retried_afterCalls hlink hcfg, resume_moved, resume_lowAccess, ← List.append_assoc] at hread
    exact exec_returns (exec_lowAccessRd hst hv) (hruns.trans hread) rfl (rawCacheEffects_port _ _ _ s)
  case timeout =>
    obtain ⟨f, value, hruns⟩ := hretries (now :: clk) hclk
    have htimeout := runs_timeout (s := (s1.opened true s.argReg s.port.argValue .lowAccess start
      (waits ++ now :: clk)).retried waits.length f value more (now :: clk)) rfl nofun rfl hlink hcfg rfl hfl rfl hpast
      hwait
    rw [opened_retried_afterCalls hlink hcfg, ← List.append_assoc] at htimeout
    exact (exec_lowAccessRd hst hv).trans (launch_of_runs (hruns.trans htimeout) rfl)

end Sys2Proof.Machine

/-! ### AP_SCAN (R248 to R251) -/

namespace Sys2Proof.Machine

/-! #### A list of accesses, served in order -/

section
variable {v : Variant} {c : Config}

theorem servesPlan_length {p : List PlanItem} {vals : List Word} {tap rest : List TapReply}
    (h : servesPlan v c p vals tap rest) : vals.length = p.length := by
  induction p generalizing vals tap with
  | nil =>
    cases vals with
    | nil => rfl
    | cons w ws => exact h.elim
  | cons x p ih =>
    cases vals with
    | nil => exact h.elim
    | cons w ws =>
      obtain ⟨mid, -, h⟩ := h
      simp [ih h]

/-- Two lists of accesses are served one after the other. -/
theorem servesPlan_append {p q : List PlanItem} {vals : List Word} {tap rest : List TapReply}
    (h : servesPlan v c (p ++ q) vals tap rest) :
    ∃ vp vq mid, vals = vp ++ vq ∧ servesPlan v c p vp tap mid ∧ servesPlan v c q vq mid rest := by
  induction p generalizing vals tap with
  | nil => exact ⟨[], vals, tap, rfl, rfl, h⟩
  | cons x p ih =>
    cases vals with
    | nil => exact h.elim
    | cons w ws =>
      obtain ⟨mid, hx, h⟩ := h
      obtain ⟨vp, vq, mid', rfl, hp, hq⟩ := ih h
      exact ⟨w :: vp, vq, mid', rfl, ⟨mid, hx, hp⟩, hq⟩

theorem keptValues_append {p q : List PlanItem} {vp vq : List Word} (h : vp.length = p.length) :
    keptValues (p ++ q) (vp ++ vq) = keptValues p vp ++ keptValues q vq := by
  simp [keptValues, List.zip_append h.symm]
end

/-- The state after the accesses of a list, served OK; `t0` is undefined once there has been one (R26). -/
def State.afterPlan (s : State) (p : List PlanItem) (tap : List TapReply) (clk : List Word) : State :=
  { s with
    trace := (planCalls s.dp.variant s.cfg p).reverse ++ s.trace
    fsmLog := (planMoves p).reverse ++ s.fsmLog
    fsm := if p = [] then s.fsm else .idle
    tapIn := tap
    clkIn := clk
    t0 := if p = [] then s.t0 else Config.freeT0 (s.nonce + p.length - 1)
    nonce := s.nonce + p.length }

theorem afterPlan_nil (s : State) : s.afterPlan [] s.tapIn s.clkIn = s := rfl

/-- One more access (R132, R133). -/
theorem afterPlan_afterOk (s : State) (p : List PlanItem) (x : PlanItem) (tap tap' : List TapReply)
    (clk clk' : List Word) : (s.afterPlan p tap' clk').afterOk x.rnw x.addr x.wval tap clk =
      s.afterPlan (p ++ [x]) tap clk := by
  apply State.ext <;>
    simp [State.afterPlan, State.afterOk, State.afterCalls, planCalls, planMoves, Nat.add_assoc]

theorem afterPlan_afterPlan (s : State) (p q : List PlanItem) (tap tap' : List TapReply) (clk clk' : List Word) :
    (s.afterPlan p tap' clk').afterPlan q tap clk = s.afterPlan (p ++ q) tap clk := by
  cases q with
  | nil => apply State.ext <;> simp [State.afterPlan, planCalls, planMoves]
  | cons x q => apply State.ext <;> simp [State.afterPlan, planCalls, planMoves, Nat.add_assoc]

theorem afterPlan_single (s : State) (x : PlanItem) (tap : List TapReply) (clk : List Word) :
    s.afterPlan [x] tap clk = s.afterOk x.rnw x.addr x.wval tap clk :=
  (afterPlan_afterOk s [] x tap s.tapIn clk s.clkIn).symm

/-! #### The SELECT write and the end of a scan -/

section
variable {t : State} {use : ApUse} {n : Nat} {k : Cont}

/-- The accesses of an `ap_access` name their own position (R181). -/
theorem apAccess_setCont (use : ApUse) (t : State) (k : Cont) : apAccess use (t.setCont k) = apAccess use t := by
  unfold apAccess ensureSelect
  cases use <;> rfl

/-- SELECT written for the pair the cache holds is no write (R180). -/
theorem setSelCache_selCache {c : Option (Byte × BitVec 4)} (h : t.dp.selCache = c) : setSelCache c t = t := by
  subst h
  rfl

/-- The number of APs found (R248). -/
def State.counted (t : State) (n : Nat) : State :=
  { t with port := { t.port with rspCount := BitVec.ofNat 32 n } }

theorem scanDone_completed (hk : k.isMem = false) : scanDone n (t.setCont k) = (t.counted n).completed .ok :=
  finish_eq_completed (s := setRspCount (BitVec.ofNat 32 n) (t.setCont k)) hk .ok
end

/-! #### One candidate: SELECT unless cached, IDR, RDBUFF -/

/-- The read of IDR, whose value is dropped (R248). -/
def idrRead : PlanItem := ⟨true, Config.apIdr, 0, false⟩

/-- The read of RDBUFF, which returns the IDR (R248). -/
def rdbuffRead : PlanItem := ⟨true, Config.dpRdbuff, 0, true⟩

/-- The accesses of candidate `i` (R248). -/
def candidatePlan (cache : Option (Byte × BitVec 4)) (i : Nat) : List PlanItem :=
  selectPlan cache (BitVec.ofNat 8 i) 0xF ++ [idrRead, rdbuffRead]

section
variable {s t u : State} {i n : Nat} {vals nows clk : List Word} {tap mid : List TapReply} {now w : Word}

theorem servesOk_write_zero {v : Variant} {c : Config} {rest : List TapReply}
    (h : servesOk v c false w tap rest) : w = 0 := by
  cases v
  case swd => exact h.2
  case jtag => exact h.2

/-- SELECT names candidate `i` (R180, R248), by no write where the cache holds the pair. -/
theorem selects_candidate
    (hs : servesPlan t.dp.variant t.cfg (selectPlan t.dp.selCache (BitVec.ofNat 8 i) 0xF) vals t.tapIn mid)
    (hclk : t.clkIn = nows ++ clk)
    (hlen : nows.length = (selectPlan t.dp.selCache (BitVec.ofNat 8 i) 0xF).length) :
    t.selects (BitVec.ofNat 8 i) 0xF ((setSelCache (some (BitVec.ofNat 8 i, 0xF)) t).afterPlan
      (selectPlan t.dp.selCache (BitVec.ofNat 8 i) 0xF) mid clk) := by
  by_cases hsel : t.dp.selCache = some (BitVec.ofNat 8 i, 0xF)
  · rw [selectPlan, if_pos hsel] at hs hlen ⊢
    obtain rfl := List.eq_nil_of_length_eq_zero (servesPlan_length hs)
    obtain rfl := List.eq_nil_of_length_eq_zero hlen
    obtain rfl : t.tapIn = mid := hs
    obtain rfl : t.clkIn = clk := hclk
    rw [setSelCache_selCache hsel]
    exact .inl ⟨hsel, afterPlan_nil t⟩
  · rw [selectPlan, if_neg hsel] at hs hlen ⊢
    obtain ⟨w, rfl⟩ := List.length_eq_one_iff.mp (servesPlan_length hs)
    obtain ⟨now, rfl⟩ := List.length_eq_one_iff.mp hlen
    obtain ⟨rest, hw, hrest⟩ := hs
    obtain rfl : rest = mid := hrest
    obtain rfl : w = 0 := servesOk_write_zero hw
    exact .inr ⟨hsel, now, clk, rest, hclk, hw, afterPlan_single _ _ _ _⟩

/-- In a scan the AP register is IDR (R248). -/
theorem apIssue_scan (i n : Nat) (u : State) :
    apIssue (.scan i n) u = beginAccess true Config.apIdr 0 (.ap (.scan i n) .first) u := by
  have haddr : apAddress (Config.apIdr.setWidth 8) = Config.apIdr := by decide
  show beginAccess true (apAddress (Config.apIdr.setWidth 8)) 0 (.ap (.scan i n) .first) u = _
  rw [haddr]

/-- IDR is in bank 0xF (R103, R248). -/
theorem bankOf_scan (i n : Nat) (t : State) : bankOf ((ApUse.scan i n).reg t) = 0xF := by
  show bankOf (Config.apIdr.setWidth 8) = 0xF
  decide

/-- SELECT served, candidate `i` is at the read of its IDR (R180, R248). -/
theorem runs_to_idr
    (hs : servesPlan t.dp.variant t.cfg (selectPlan t.dp.selCache (BitVec.ofNat 8 i) 0xF) vals t.tapIn mid)
    (hclk : t.clkIn = nows ++ clk)
    (hlen : nows.length = (selectPlan t.dp.selCache (BitVec.ofNat 8 i) 0xF).length) :
    Runs (apAccess (.scan i n) t) (beginAccess true Config.apIdr 0 (.ap (.scan i n) .first)
      ((setSelCache (some (BitVec.ofNat 8 i, 0xF)) t).afterPlan
        (selectPlan t.dp.selCache (BitVec.ofNat 8 i) 0xF) mid clk)) := by
  rw [← apIssue_scan]
  refine runs_selects (.scan i n) ?_
  rw [bankOf_scan]
  exact selects_candidate hs hclk hlen

/-- The read of IDR served, RDBUFF is read (R248). -/
theorem runs_idr (hf : u.dp.fault = false) (hs : servesOk u.dp.variant u.cfg true w u.tapIn mid)
    (hclk : u.clkIn = now :: clk) :
    Runs (beginAccess true Config.apIdr 0 (.ap (.scan i n) .first) u)
      (beginAccess true Config.dpRdbuff 0 (.ap (.scan i n) .last) (u.afterPlan [idrRead] mid clk)) := by
  have hread := runs_access_ok (k := .ap (.scan i n) .first) (addr := Config.apIdr) (wval := 0) nofun (by simp [hf])
    hclk hs
  rw [afterPlan_single]
  exact hread

/-- The read of RDBUFF served, the IDR is known (R248). -/
theorem runs_rdbuff (hs : servesOk u.dp.variant u.cfg true w u.tapIn mid) (hclk : u.clkIn = now :: clk) :
    Runs (beginAccess true Config.dpRdbuff 0 (.ap (.scan i n) .last) u)
      (scanNext i n w ((u.afterPlan [rdbuffRead] mid clk).setCont (.ap (.scan i n) .last))) := by
  have hread := runs_access_ok (k := .ap (.scan i n) .last) (addr := Config.dpRdbuff) (wval := 0) nofun
    (not_shortCircuited_of_dp rfl u) hclk hs
  rw [afterPlan_single]
  exact hread

/-- A list of given length is cut where the lengths say. -/
theorem exists_append_of_length_add {α : Type} {l : List α} {a b : Nat} (h : l.length = a + b) :
    ∃ l1 l2, l = l1 ++ l2 ∧ l1.length = a ∧ l2.length = b :=
  ⟨l.take a, l.drop a, (List.take_append_drop a l).symm, by simp [h], by simp [h]⟩

/-- Nothing is kept of SELECT, nor of the first read (R248). -/
theorem keptValues_eq_nil {p : List PlanItem} (h : ∀ x ∈ p, x.keeps = false) (vals : List Word) :
    keptValues p vals = [] := by
  simp only [keptValues, List.map_eq_nil_iff, List.filter_eq_nil_iff]
  intro e he
  simp [h e.1 (List.of_mem_zip he).1]

theorem selectPlan_keeps (cache : Option (Byte × BitVec 4)) (i : Byte) (b : BitVec 4) :
    ∀ x ∈ selectPlan cache i b, x.keeps = false := by
  unfold selectPlan
  split <;> simp

/-- A candidate whose accesses are served: its IDR is the one value kept, and the scan goes on with it (R248). -/
theorem runs_candidate (hf : t.dp.fault = false)
    (hs : servesPlan t.dp.variant t.cfg (candidatePlan t.dp.selCache i) vals t.tapIn tap)
    (hclk : t.clkIn = nows ++ clk) (hlen : nows.length = (candidatePlan t.dp.selCache i).length) :
    ∃ w, keptValues (candidatePlan t.dp.selCache i) vals = [w] ∧
      Runs (apAccess (.scan i n) t)
        (scanNext i n w (((setSelCache (some (BitVec.ofNat 8 i, 0xF)) t).afterPlan
          (candidatePlan t.dp.selCache i) tap clk).setCont (.ap (.scan i n) .last))) := by
  obtain ⟨vsel, vreads, mid, rfl, hsel, hreads⟩ := servesPlan_append hs
  obtain ⟨nsel, nreads, rfl, hnsel, hnreads⟩ := exists_append_of_length_add (hlen.trans (List.length_append ..))
  obtain ⟨now, now', rfl⟩ := List.length_eq_two.mp hnreads
  obtain ⟨stale, w, rfl⟩ := List.length_eq_two.mp (servesPlan_length hreads)
  obtain ⟨mid', hidr, hrest⟩ := hreads
  obtain ⟨mid'', hrdbuff, htap⟩ := hrest
  obtain rfl : mid'' = tap := htap
  refine ⟨w, ?kept, ?runs⟩
  case kept =>
    rw [candidatePlan, keptValues_append (servesPlan_length hsel), keptValues_eq_nil (selectPlan_keeps _ _ _)]
    rfl
  case runs =>
    have hselect := runs_to_idr (n := n) hsel (clk := now :: now' :: clk) (by simpa using hclk) hnsel
    have hfirst := runs_idr (i := i) (n := n) (u := (setSelCache (some (BitVec.ofNat 8 i, 0xF)) t).afterPlan
      (selectPlan t.dp.selCache (BitVec.ofNat 8 i) 0xF) mid (now :: now' :: clk)) hf hidr rfl
    have hlast := runs_rdbuff (i := i) (n := n) (u := ((setSelCache (some (BitVec.ofNat 8 i, 0xF)) t).afterPlan
      (selectPlan t.dp.selCache (BitVec.ofNat 8 i) 0xF) mid (now :: now' :: clk)).afterPlan [idrRead] mid'
      (now' :: clk)) hrdbuff rfl
    rw [afterPlan_afterPlan, afterPlan_afterPlan, List.append_assoc] at hlast
    rw [afterPlan_afterPlan] at hfirst
    exact (hselect.trans hfirst).trans hlast

/-- A FAULT on an access of a candidate but its SELECT write ends the scan with the APs found before it (R249, log 24). -/
theorem resume_scan_fault {p : ApPos} (hp : p ≠ .select) (hf : t.dp.fault = true) :
    resume 0 .fault (t.setCont (.ap (.scan i n) p)) = (t.counted n).completed .ok := by
  have hdone : scanNext i n 0 (t.setCont (.ap (.scan i n) p)) = (t.counted n).completed .ok := by
    rw [scanNext_latched (by simpa using hf), scanDone_completed rfl]
  cases p with
  | select => exact absurd rfl hp
  | first => exact hdone
  | last => exact hdone

/-- A FAULT on a candidate's SELECT write ends the scan, and the SELECT cache is dropped (R180, R249, log 24). -/
theorem resume_scan_select_fault (hf : t.dp.fault = true) :
    resume 0 .fault (t.setCont (.ap (.scan i n) .select)) = ((setSelCache none t).counted n).completed .ok := by
  show scanNext i n 0 ((setSelCache none t).setCont (.ap (.scan i n) .select)) = _
  rw [scanNext_latched (by simpa using hf), scanDone_completed rfl]

/-- A candidate's read of IDR or RDBUFF answered FAULT (R137, R249). -/
theorem runs_scan_fault {p : ApPos} {rnw : Bool} {addr : BitVec 9} {wval : Word} (hp : p ≠ .select)
    (hf : u.dp.fault = false) (hfl : u.cfg.flushOnNonOk = false) (hclk : u.clkIn = now :: clk)
    (hfault : servesFault u.dp.variant u.cfg u.tapIn tap) :
    Runs (beginAccess rnw addr wval (.ap (.scan i n) p) u)
      (((u.afterFault rnw addr wval tap clk).counted n).completed .ok) := by
  have haccess := runs_access_fault (rnw := rnw) (addr := addr) (wval := wval) (k := .ap (.scan i n) p) nofun
    (by simp [hf]) hfl hclk hfault
  rwa [resume_scan_fault hp rfl] at haccess

/-- Which access of a candidate stands at place `j`: SELECT, where it is written, IDR, or RDBUFF (R248). -/
theorem candidatePlan_getElem? {cache : Option (Byte × BitVec 4)} {j : Nat} {x : PlanItem}
    (h : (candidatePlan cache i)[j]? = some x) :
    (j = 0 ∧ cache ≠ some (BitVec.ofNat 8 i, 0xF) ∧
      x = ⟨false, Config.dpSelect, selectValue (BitVec.ofNat 8 i) 0xF, false⟩) ∨
    (j = (selectPlan cache (BitVec.ofNat 8 i) 0xF).length ∧ x = idrRead) ∨
    (j = (selectPlan cache (BitVec.ofNat 8 i) 0xF).length + 1 ∧ x = rdbuffRead) := by
  unfold candidatePlan selectPlan at *
  split at h
  · match j with
    | 0 | 1 => simp_all
    | j + 2 => simp at h
  · match j with
    | 0 | 1 | 2 => simp_all
    | j + 3 => simp at h

/-- A FAULT on access `j` of a candidate, those before it served: the scan ends with the APs found before (R249). -/
theorem runs_candidate_fault {j : Nat} {x : PlanItem} (hf : t.dp.fault = false) (hfl : t.cfg.flushOnNonOk = false)
    (hx : (candidatePlan t.dp.selCache i)[j]? = some x)
    (hs : servesPlan t.dp.variant t.cfg ((candidatePlan t.dp.selCache i).take j) vals t.tapIn mid)
    (hfault : servesFault t.dp.variant t.cfg mid tap) (hclk : t.clkIn = nows ++ clk) (hlen : nows.length = j + 1) :
    Runs (apAccess (.scan i n) t)
      (((((setSelCache (if x.addr = 0x008 then none else some (BitVec.ofNat 8 i, 0xF)) t).afterPlan
        ((candidatePlan t.dp.selCache i).take j) mid clk).afterFault x.rnw x.addr x.wval tap clk).counted n).completed
          .ok) := by
  rcases candidatePlan_getElem? hx with ⟨rfl, hmiss, rfl⟩ | ⟨rfl, rfl⟩ | ⟨rfl, rfl⟩
  · obtain ⟨now, rfl⟩ := List.length_eq_one_iff.mp hlen
    obtain rfl := List.eq_nil_of_length_eq_zero (servesPlan_length hs)
    obtain rfl : t.tapIn = mid := hs
    have hselect := runs_select_fault (.scan i n) (bankOf_scan i n t ▸ hmiss) hfl hclk hfault
    rw [bankOf_scan, resume_scan_select_fault rfl] at hselect
    exact hselect
  · obtain ⟨nsel, nread, rfl, hnsel, hnread⟩ := exists_append_of_length_add hlen
    obtain ⟨now, rfl⟩ := List.length_eq_one_iff.mp hnread
    rw [candidatePlan, List.take_left] at hs ⊢
    have hselect := runs_to_idr (n := n) hs (clk := now :: clk) (by simpa using hclk) hnsel
    have hread := runs_scan_fault (i := i) (n := n) (p := .first) (rnw := true) (addr := Config.apIdr) (wval := 0)
      (u := (setSelCache (some (BitVec.ofNat 8 i, 0xF)) t).afterPlan
        (selectPlan t.dp.selCache (BitVec.ofNat 8 i) 0xF) mid (now :: clk)) nofun hf hfl rfl hfault
    exact hselect.trans hread
  · obtain ⟨nsel, nreads, rfl, hnsel, hnreads⟩ := exists_append_of_length_add (hlen.trans (Nat.add_assoc ..))
    obtain ⟨now, now', rfl⟩ := List.length_eq_two.mp hnreads
    have htake : (candidatePlan t.dp.selCache i).take
        ((selectPlan t.dp.selCache (BitVec.ofNat 8 i) 0xF).length + 1) =
        selectPlan t.dp.selCache (BitVec.ofNat 8 i) 0xF ++ [idrRead] := by
      simp [candidatePlan, List.take_append]
    rw [htake] at hs ⊢
    obtain ⟨vsel, vread, mid', rfl, hsel, hread⟩ := servesPlan_append hs
    obtain ⟨stale, rfl⟩ := List.length_eq_one_iff.mp (servesPlan_length hread)
    obtain ⟨mid'', hidr, hmid⟩ := hread
    obtain rfl : mid'' = mid := hmid
    have hselect := runs_to_idr (n := n) hsel (clk := now :: now' :: clk) (by simpa using hclk) hnsel
    have hfirst := runs_idr (i := i) (n := n) (u := (setSelCache (some (BitVec.ofNat 8 i, 0xF)) t).afterPlan
      (selectPlan t.dp.selCache (BitVec.ofNat 8 i) 0xF) mid' (now :: now' :: clk)) hf hidr rfl
    rw [afterPlan_afterPlan] at hfirst
    have hlast := runs_scan_fault (i := i) (n := n) (p := .last) (rnw := true) (addr := Config.dpRdbuff) (wval := 0)
      (u := (setSelCache (some (BitVec.ofNat 8 i, 0xF)) t).afterPlan
        (selectPlan t.dp.selCache (BitVec.ofNat 8 i) 0xF ++ [idrRead]) mid'' (now' :: clk)) nofun hf hfl rfl hfault
    exact (hselect.trans hfirst).trans hlast
end

end Sys2Proof.Machine

namespace Sys2Proof.Machine

/-! #### What the candidates read so far leave -/

section
variable {idrs : List Word} {w : Word}

/-- One more candidate read: it is found if its IDR is not zero (R248). -/
theorem apsFound_append (idrs : List Word) (w : Word) :
    apsFound (idrs ++ [w]) = apsFound idrs ++ (if w ≠ 0 then [(BitVec.ofNat 8 idrs.length, w)] else []) := by
  by_cases hw : w = 0#32 <;> simp [apsFound, List.zipIdx_append, hw]

/-- The APs found stand below the next candidate (R248). -/
theorem select_lt_of_mem_apsFound (h : idrs.length ≤ 256) :
    ∀ e ∈ apsFound idrs, e.1.toNat < idrs.length := by
  intro e he
  simp only [apsFound, List.mem_map, List.mem_filter] at he
  obtain ⟨⟨x, j⟩, ⟨hmem, -⟩, rfl⟩ := he
  have hj := (List.mem_zipIdx' hmem).1
  simp only [BitVec.toNat_ofNat]
  omega

/-- The next candidate is not among the APs found. -/
theorem find?_apsFound_next (h : idrs.length < 256) :
    (apsFound idrs).find? (fun e => e.1 == BitVec.ofNat 8 idrs.length) = none := by
  simp only [List.find?_eq_none, beq_iff_eq]
  intro e he heq
  have hlt := select_lt_of_mem_apsFound (Nat.le_of_lt h) e he
  rw [heq, BitVec.toNat_ofNat] at hlt
  omega

/-- With nothing found every AccessPort object is gone (R248). -/
theorem apsAfterScan_nil (s : State) : apsAfterScan s [] = ApTable.map AccessPort.discard s.aps :=
  ApTable.ext_get fun i => by simp [apsAfterScan, AccessPort.discard, State.ap]

/-- An AP found has its object, with its IDR (R248). -/
theorem apsAfterScan_found (s : State) (h : idrs.length < 256) (w : Word) :
    ApTable.change (BitVec.ofNat 8 idrs.length) (fun p => { p with present := true, idr := w })
      (apsAfterScan s (apsFound idrs)) =
      apsAfterScan s (apsFound idrs ++ [(BitVec.ofNat 8 idrs.length, w)]) := by
  refine ApTable.ext_get fun i => ?_
  simp only [ApTable.get_change, apsAfterScan, ApTable.get_tabulate, List.find?_append, List.find?_singleton]
  by_cases hi : BitVec.ofNat 8 idrs.length = i
  · subst hi
    simp [find?_apsFound_next h]
  · cases (apsFound idrs).find? (fun e => e.1 == i) <;> simp [hi]

theorem scanBytes_append (l : List (Byte × Word)) (i : Byte) (w : Word) :
    scanBytes (l ++ [(i, w)]) = scanBytes l ++ scanRecord i w := by
  rw [scanBytes, List.flatMap_append]
  rfl

/-- Each AP found takes five bytes (R251). -/
theorem length_scanBytes (l : List (Byte × Word)) : (scanBytes l).length = 5 * l.length := by
  simp [scanBytes, Nat.mul_comm]

theorem writeBytes_append (m : List Host.Cell) (i : Nat) (bs bs' : List Byte) :
    Memory.writeBytes m i (bs ++ bs') = Memory.writeBytes (Memory.writeBytes m i bs) (i + bs.length) bs' := by
  induction bs generalizing m i with
  | nil => rfl
  | cons b bs ih => simp [Memory.writeBytes, ih, Nat.add_assoc, Nat.add_comm]
end

/-! #### The loop over the candidates -/

/-- What the SELECT cache holds when candidate `i` comes (R180, R248). -/
def selCacheAt (cache : Option (Byte × BitVec 4)) (i : Nat) : Option (Byte × BitVec 4) :=
  if i = 0 then cache else some (BitVec.ofNat 8 (i - 1), 0xF)

/-- The accesses up to candidate `i` and those of candidate `i`: only candidate 0 can find its pair cached. -/
theorem scanPlan_succ (cache : Option (Byte × BitVec 4)) {i : Nat} (h : i < 256) :
    scanPlan cache (i + 1) = scanPlan cache i ++ candidatePlan (selCacheAt cache i) i := by
  have hselect : selectPlan (if i = 0 then cache else none) (BitVec.ofNat 8 i) 0xF =
      selectPlan (selCacheAt cache i) (BitVec.ofNat 8 i) 0xF := by
    unfold selCacheAt
    split
    · rfl
    · have hne : BitVec.ofNat 8 (i - 1) ≠ BitVec.ofNat 8 i := by
        intro heq
        have := congrArg BitVec.toNat heq
        simp only [BitVec.toNat_ofNat] at this
        omega
      simp [selectPlan, hne]
  rw [scanPlan, List.range_succ, List.flatMap_append, List.flatMap_singleton, hselect]
  rfl

/-- The records of the candidates that gave `idrs`, SELECT's cache holding `c` (R248, R251). -/
def State.recorded (s : State) (c : Option (Byte × BitVec 4)) (idrs : List Word) : State :=
  { s with
    dp := { s.dp with selCache := c }
    aps := apsAfterScan s (apsFound idrs)
    hbuf := Memory.writeBytes s.hbuf 0 (scanBytes (apsFound idrs)) }

/-- `s` after the candidates that gave `idrs`, every access served OK (R248, R251). -/
def State.scanned (s : State) (idrs : List Word) (tap : List TapReply) (clk : List Word) : State :=
  (s.recorded (selCacheAt s.dp.selCache idrs.length) idrs).afterPlan (scanPlan s.dp.selCache idrs.length) tap clk

theorem scanned_nil (s : State) : s.scanned [] s.tapIn s.clkIn = discardAps s := by
  rw [discardAps, ← apsAfterScan_nil]
  rfl

/-- The table and the result list after one more candidate (R248, R251). -/
def State.noted (t : State) (i n : Nat) (w : Word) : State := if w ≠ 0 then scanFound i n w t else t

/-- After a candidate: the scan ends at a zero under the policy of stopping, else goes on to the next (R248, R250). -/
theorem scanNext_eq (i n : Nat) (w : Word) (t : State) : scanNext i n w t =
    if w = 0 ∧ t.cfg.apScanStopAtFirstZero = true then scanDone (if w ≠ 0 then n + 1 else n) (t.noted i n w)
    else scanCandidate (i + 1) (if w ≠ 0 then n + 1 else n) (t.noted i n w) := by
  by_cases hw : w = 0#32 <;> simp [scanNext, State.noted, hw]

section
variable {s : State} {idrs : List Word} {w : Word} {tap tap' : List TapReply} {clk clk' : List Word}

/-- The APs found, the table and the result list after one more candidate (R248, R251). -/
theorem noted_found (h : idrs.length < 256) (t : State)
    (haps : t.aps = apsAfterScan s (apsFound idrs))
    (hhbuf : t.hbuf = Memory.writeBytes s.hbuf 0 (scanBytes (apsFound idrs))) :
    t.noted idrs.length (apsFound idrs).length w = { t with
      aps := apsAfterScan s (apsFound (idrs ++ [w]))
      hbuf := Memory.writeBytes s.hbuf 0 (scanBytes (apsFound (idrs ++ [w]))) } := by
  rw [apsFound_append]
  by_cases hw : w = 0
  · rw [State.noted, if_neg (not_not.mpr hw), if_neg (not_not.mpr hw), List.append_nil, ← haps, ← hhbuf]
  · rw [State.noted, if_pos hw, if_pos hw, scanBytes_append, writeBytes_append, ← apsAfterScan_found s h, ← haps,
      ← hhbuf, length_scanBytes, Nat.zero_add]
    rfl

/-- The accesses of candidate `idrs.length` and its record, after those before it (R248). -/
theorem scanned_append (h : idrs.length < 256) :
    ((setSelCache (some (BitVec.ofNat 8 idrs.length, 0xF)) (s.scanned idrs tap' clk')).afterPlan
      (candidatePlan (selCacheAt s.dp.selCache idrs.length) idrs.length) tap clk).noted idrs.length
        (apsFound idrs).length w = s.scanned (idrs ++ [w]) tap clk := by
  rw [noted_found h _ rfl rfl]
  have hplan : scanPlan s.dp.selCache (idrs ++ [w]).length =
      scanPlan s.dp.selCache idrs.length ++ candidatePlan (selCacheAt s.dp.selCache idrs.length) idrs.length := by
    rw [List.length_append]
    exact scanPlan_succ _ h
  have hcache : selCacheAt s.dp.selCache (idrs ++ [w]).length = some (BitVec.ofNat 8 idrs.length, 0xF) := by
    simp [selCacheAt]
  rw [State.scanned, State.scanned, hplan, hcache, ← afterPlan_afterPlan (tap' := tap') (clk' := clk')]
  rfl

/-- The number of APs found counts the candidates whose IDR is not zero (R248). -/
theorem length_apsFound_append (idrs : List Word) (w : Word) :
    (apsFound (idrs ++ [w])).length = if w ≠ 0 then (apsFound idrs).length + 1 else (apsFound idrs).length := by
  rw [apsFound_append]
  split <;> simp

/-- Where the scan goes after the candidate that gave `w`: it ends at a zero under the policy of stopping and after the last
candidate, else the next candidate comes (R248, R250). -/
def State.afterCandidate (s : State) (idrs : List Word) (w : Word) (tap : List TapReply) (clk : List Word) : State :=
  if w = 0 ∧ s.cfg.apScanStopAtFirstZero = true ∨ 256 ≤ (idrs ++ [w]).length then
    ((s.scanned (idrs ++ [w]) tap clk).counted (apsFound (idrs ++ [w])).length).completed .ok
  else apAccess (.scan (idrs ++ [w]).length (apsFound (idrs ++ [w])).length) (s.scanned (idrs ++ [w]) tap clk)

/-- Without the latch the next candidate is read, unless there is none (R248). -/
theorem scanCandidate_setCont {t : State} {k : Cont} (hf : t.dp.fault = false) (hk : k.isMem = false) (i n : Nat) :
    scanCandidate i n (t.setCont k) =
      if 256 ≤ i then (t.counted n).completed .ok else apAccess (.scan i n) t := by
  have hlatch : ¬ (t.setCont k).dp.fault = true := by simp [hf]
  unfold scanCandidate
  rw [scanDone_completed hk, if_neg hlatch, apAccess_setCont]
  rfl

theorem scanNext_candidate {i n : Nat} {t : State} {k : Cont} (hf : s.dp.fault = false) (hk : k.isMem = false)
    (hi : i = idrs.length) (hn : n = (apsFound idrs).length)
    (ht : t.noted i n w = s.scanned (idrs ++ [w]) tap clk) (hcfg : t.cfg = s.cfg) :
    scanNext i n w (t.setCont k) = s.afterCandidate idrs w tap clk := by
  have hnoted : (t.setCont k).noted i n w = (s.scanned (idrs ++ [w]) tap clk).setCont k := by
    rw [← ht]
    unfold State.noted
    split <;> rfl
  have hlatch : (s.scanned (idrs ++ [w]) tap clk).dp.fault = false := hf
  have hlength : (idrs ++ [w]).length = i + 1 := by simp [hi]
  rw [scanNext_eq, hnoted, scanDone_completed hk, scanCandidate_setCont hlatch hk, State.afterCandidate,
    length_apsFound_append, ← hn, hlength, State.setCont_cfg, hcfg]
  by_cases hstop : w = 0 ∧ s.cfg.apScanStopAtFirstZero = true
  · have hend : w = 0 ∧ s.cfg.apScanStopAtFirstZero = true ∨ 256 ≤ i + 1 := .inl hstop
    rw [if_pos hstop, if_pos hend]
  · simp only [hstop, if_false, false_or]

/-- A candidate after those that gave `idrs`: its accesses are served, and the scan goes on with its IDR (R248, R250). -/
theorem runs_next_candidate {vals nows : List Word} (h : idrs.length < 256) (hf : s.dp.fault = false)
    (hs : servesPlan s.dp.variant s.cfg (candidatePlan (selCacheAt s.dp.selCache idrs.length) idrs.length) vals tap' tap)
    (hclk : clk' = nows ++ clk)
    (hlen : nows.length = (candidatePlan (selCacheAt s.dp.selCache idrs.length) idrs.length).length) :
    ∃ w, keptValues (candidatePlan (selCacheAt s.dp.selCache idrs.length) idrs.length) vals = [w] ∧
      Runs (apAccess (.scan idrs.length (apsFound idrs).length) (s.scanned idrs tap' clk'))
        (s.afterCandidate idrs w tap clk) := by
  obtain ⟨w, hkept, hruns⟩ := runs_candidate (t := s.scanned idrs tap' clk') (i := idrs.length)
    (n := (apsFound idrs).length) hf hs hclk hlen
  have hnext := scanNext_candidate (k := .ap (.scan idrs.length (apsFound idrs).length) .last) hf rfl rfl rfl
    (scanned_append (s := s) (tap := tap) (tap' := tap') (clk := clk) (clk' := clk') (w := w) h) rfl
  exact ⟨w, hkept, hnext ▸ hruns⟩

/-- From its first candidate AP_SCAN comes to the one after those that give `idrs`, when their accesses are served. -/
def ScansThrough (s : State) (idrs : List Word) : Prop :=
  ∀ vals nows clk tap, servesPlan s.dp.variant s.cfg (scanPlan s.dp.selCache idrs.length) vals s.tapIn tap →
    keptValues (scanPlan s.dp.selCache idrs.length) vals = idrs → s.clkIn = nows ++ clk →
    nows.length = (scanPlan s.dp.selCache idrs.length).length →
    Runs (apAccess (.scan 0 0) (discardAps s))
      (apAccess (.scan idrs.length (apsFound idrs).length) (s.scanned idrs tap clk))

theorem scansThrough_nil (s : State) : ScansThrough s [] := by
  intro vals nows clk tap hs _ hclk hlen
  obtain rfl := List.eq_nil_of_length_eq_zero hlen
  obtain rfl := List.eq_nil_of_length_eq_zero (servesPlan_length hs)
  obtain rfl : s.tapIn = tap := hs
  obtain rfl : s.clkIn = clk := hclk
  rw [scanned_nil]
  exact .refl _

/-- One candidate more (R248, R250). -/
theorem ScansThrough.next {vals nows : List Word} (hprefix : ScansThrough s idrs) (h : idrs.length < 256)
    (hf : s.dp.fault = false)
    (hs : servesPlan s.dp.variant s.cfg (scanPlan s.dp.selCache (idrs ++ [w]).length) vals s.tapIn tap)
    (hkept : keptValues (scanPlan s.dp.selCache (idrs ++ [w]).length) vals = idrs ++ [w])
    (hclk : s.clkIn = nows ++ clk) (hlen : nows.length = (scanPlan s.dp.selCache (idrs ++ [w]).length).length) :
    Runs (apAccess (.scan 0 0) (discardAps s)) (s.afterCandidate idrs w tap clk) := by
  rw [List.length_append, List.length_singleton, scanPlan_succ _ h] at hs hkept hlen
  obtain ⟨vp, vq, mid, rfl, hp, hq⟩ := servesPlan_append hs
  obtain ⟨np, nq, rfl, hnp, hnq⟩ := exists_append_of_length_add (hlen.trans (List.length_append ..))
  obtain ⟨w', hw', hlast⟩ := runs_next_candidate (clk := clk) h hf hq rfl hnq
  rw [keptValues_append (servesPlan_length hp), hw'] at hkept
  obtain ⟨hidrs, hw⟩ := List.append_inj' hkept rfl
  obtain rfl : w' = w := by simpa using hw
  exact (hprefix vp np (nq ++ clk) mid hp hidrs (by simpa using hclk) hnp).trans hlast

/-- A scan that none of its candidates ends comes to the next one (R248, R250). -/
theorem scansThrough (hf : s.dp.fault = false) : ∀ {idrs : List Word}, idrs.length < 256 →
    (s.cfg.apScanStopAtFirstZero = true → ∀ y ∈ idrs, y ≠ 0) → ScansThrough s idrs := by
  intro idrs
  induction idrs using List.reverseRecOn with
  | nil => exact fun _ _ => scansThrough_nil s
  | append_singleton idrs w ih =>
    intro hlt hgo vals nows clk tap hs hkept hclk hlen
    have hshort : idrs.length < 256 := by
      rw [List.length_append] at hlt
      omega
    have hprefix := ih hshort fun hstop y hy => hgo hstop y (List.mem_append_left _ hy)
    have hruns := hprefix.next hshort hf hs hkept hclk hlen
    rwa [State.afterCandidate, if_neg] at hruns
    rintro (⟨hzero, hstop⟩ | hall)
    · exact hgo hstop w (by simp) hzero
    · exact Nat.not_le.mpr hlt hall
end

/-! #### The statement -/

/-- Where the scan ends: every candidate but the last lets it go on, and the last ends it (R250). -/
theorem scanEnds_last {stop : Bool} {idrs : List Word} (h : scanEnds stop idrs) : ∃ front last,
    idrs = front ++ [last] ∧ front.length < 256 ∧ (stop = true → ∀ y ∈ front, y ≠ 0) ∧
      (last = 0 ∧ stop = true ∨ 256 ≤ (front ++ [last]).length) := by
  rcases h with ⟨hlen, hfront⟩ | ⟨hstop, found, rfl, hlen, hfound⟩
  · have hne : idrs ≠ [] := List.ne_nil_of_length_pos (by omega)
    have heq := List.dropLast_append_getLast hne
    refine ⟨idrs.dropLast, idrs.getLast hne, heq.symm, by simp [hlen], hfront, .inr ?_⟩
    rw [heq, hlen]
  · exact ⟨found, 0, rfl, hlen, fun _ => hfound, .inl ⟨rfl, hstop⟩⟩

/-- AP_SCAN begins with every AccessPort object gone; under the latch it ends there (R248, R249). -/
theorem exec_apScan {s : State} (hst : s.stage = .idle) (hv : s.dp.valid = true) :
    exec .apScan s = launch
      (if s.dp.fault = true then scanDone 0 (discardAps s) else apAccess (.scan 0 0) (discardAps s)) :=
  exec_begun rfl hst (if_pos hv)

/-- The result list as HBUF holds it (R251). -/
theorem read_scanBytes (m : List Host.Cell) (l : List (Byte × Word)) (j : Nat) :
    Memory.read (Memory.writeBytes m 0 (scanBytes l)) j = ((scanBytes l)[j]?).getD (Memory.read m j) := by
  rw [Memory.read_writeBytes, if_pos (Nat.zero_le j), Nat.sub_zero]

/-- Every candidate has at least its two reads (R248). -/
theorem scanPlan_ne_nil (cache : Option (Byte × BitVec 4)) {m : Nat} (h : 0 < m) : scanPlan cache m ≠ [] := by
  obtain ⟨i, rfl⟩ := Nat.exists_eq_succ_of_ne_zero (Nat.ne_of_gt h)
  rw [scanPlan, List.range_succ, List.flatMap_append, List.flatMap_singleton]
  simp

/-- Nothing is kept of a candidate before its last access (R248). -/
theorem candidatePlan_take_keeps {cache : Option (Byte × BitVec 4)} {i j : Nat} {x : PlanItem}
    (h : (candidatePlan cache i)[j]? = some x) : ∀ y ∈ (candidatePlan cache i).take j, y.keeps = false := by
  have hsplit : candidatePlan cache i = (selectPlan cache (BitVec.ofNat 8 i) 0xF ++ [idrRead]) ++ [rdbuffRead] := by
    simp [candidatePlan]
  have hj : j ≤ (selectPlan cache (BitVec.ofNat 8 i) 0xF ++ [idrRead]).length := by
    have hlt := (List.getElem?_eq_some_iff.mp h).1
    rw [hsplit, List.length_append] at hlt
    exact Nat.le_of_lt_succ hlt
  intro y hy
  rw [hsplit, List.take_append_of_le_length hj] at hy
  rcases List.mem_append.mp (List.mem_of_mem_take hy) with hy | hy
  · exact selectPlan_keeps _ _ _ y hy
  · rw [List.mem_singleton.mp hy]
    rfl

/-- Accesses after the candidates that gave `idrs`, SELECT's cache then holding `c` (R180, R248). -/
theorem scanned_afterPlan (s : State) (idrs : List Word) (c : Option (Byte × BitVec 4)) (q : List PlanItem)
    (tap tap' : List TapReply) (clk clk' : List Word) :
    (setSelCache c (s.scanned idrs tap' clk')).afterPlan q tap clk =
      (s.recorded c idrs).afterPlan (scanPlan s.dp.selCache idrs.length ++ q) tap clk :=
  afterPlan_afterPlan (s.recorded c idrs) (scanPlan s.dp.selCache idrs.length) q tap tap' clk clk'

/-- Accesses served, and then one answered FAULT (R137). -/
theorem afterPlan_afterFault (t : State) (p : List PlanItem) (rnw : Bool) (addr : BitVec 9) (wval : Word)
    (mid tap : List TapReply) (clk : List Word) : (t.afterPlan p mid clk).afterFault rnw addr wval tap clk = { t with
      trace := (planCalls t.dp.variant t.cfg p ++ requestCalls t.dp.variant t.cfg rnw addr wval).reverse ++ t.trace
      fsmLog := (planMoves p ++ [Fsm.requestSent, .faulted, .idle]).reverse ++ t.fsmLog
      fsm := .idle
      tapIn := tap
      clkIn := clk
      t0 := Config.freeT0 (t.nonce + p.length)
      nonce := t.nonce + p.length + 1
      dp := { t.dp with fault := true } } := by
  apply State.ext <;> simp [State.afterFault, State.afterCalls, State.afterPlan]

/-- A FAULT on access `j` of the candidate after those that gave `idrs`: the scan ends with the APs found (R249, log 24). -/
theorem runs_scanned_fault {s : State} {idrs vals nows clk : List Word} {mid tap : List TapReply} {j : Nat} {x : PlanItem}
    (hf : s.dp.fault = false) (hfl : s.cfg.flushOnNonOk = false) (hlt : idrs.length < 256)
    (hgo : s.cfg.apScanStopAtFirstZero = true → ∀ y ∈ idrs, y ≠ 0)
    (hx : (candidatePlan (selCacheAt s.dp.selCache idrs.length) idrs.length)[j]? = some x)
    (hs : servesPlan s.dp.variant s.cfg (scanPlan s.dp.selCache idrs.length ++
      (candidatePlan (selCacheAt s.dp.selCache idrs.length) idrs.length).take j) vals s.tapIn mid)
    (hkept : keptValues (scanPlan s.dp.selCache idrs.length ++
      (candidatePlan (selCacheAt s.dp.selCache idrs.length) idrs.length).take j) vals = idrs)
    (hfault : servesFault s.dp.variant s.cfg mid tap) (hclk : s.clkIn = nows ++ clk)
    (hlen : nows.length = (scanPlan s.dp.selCache idrs.length).length + j + 1) :
    ∃ tap' clk', Runs (apAccess (.scan 0 0) (discardAps s))
      (((((setSelCache (if x.addr = 0x008 then none else some (BitVec.ofNat 8 idrs.length, 0xF))
        (s.scanned idrs tap' clk')).afterPlan
          ((candidatePlan (selCacheAt s.dp.selCache idrs.length) idrs.length).take j) mid clk).afterFault
            x.rnw x.addr x.wval tap clk).counted (apsFound idrs).length).completed .ok) := by
  obtain ⟨vp, vq, tap', rfl, hp, hq⟩ := servesPlan_append hs
  obtain ⟨np, nq, rfl, hnp, hnq⟩ := exists_append_of_length_add (hlen.trans (Nat.add_assoc ..))
  rw [keptValues_append (servesPlan_length hp), keptValues_eq_nil (candidatePlan_take_keeps hx), List.append_nil] at hkept
  have hprefix := scansThrough hf hlt hgo vp np (nq ++ clk) tap' hp hkept (by simpa using hclk) hnp
  exact ⟨tap', nq ++ clk, hprefix.trans
    (runs_candidate_fault (t := s.scanned idrs tap' (nq ++ clk)) hf hfl hx hq hfault rfl hnq)⟩

/-- Settles O56: the latch at entry; the candidates up to the one that ends the scan; those before the FAULT, and then the
FAULT. -/
theorem apScanFinds : Obligations.ApScanFinds := by
  intro s hst hv
  refine ⟨?latched, ?served, ?faulted⟩
  case latched =>
    intro hf hc
    have hdone : scanDone 0 (discardAps s) = ((discardAps s).counted 0).completed .ok :=
      scanDone_completed (t := discardAps s) (k := s.cont) (by rw [hc]; rfl)
    rw [exec_apScan hst hv, if_pos hf, hdone, launch_idle rfl, apsAfterScan_nil, State.completed, ← hst, ← hc]
    rfl
  case served =>
    intro idrs vals tap nows clk hf hends p found hs hkept hclk hlen
    refine ⟨_, ?_, read_scanBytes s.hbuf found⟩
    obtain ⟨front, last, rfl, hshort, hgo, hend⟩ := scanEnds_last hends
    have hruns := (scansThrough hf hshort hgo).next hshort hf hs hkept hclk hlen
    have hpos : (front ++ [last]).length ≠ 0 := by simp
    rw [State.afterCandidate, if_pos hend, State.scanned, State.afterPlan, selCacheAt, if_neg hpos,
      if_neg (scanPlan_ne_nil _ (Nat.pos_of_ne_zero hpos)), if_neg (scanPlan_ne_nil _ (Nat.pos_of_ne_zero hpos))] at hruns
    rw [exec_apScan hst hv, if_neg (by simp [hf]), launch_of_runs hruns rfl, State.completed, ← hst]
    rfl
  case faulted =>
    intro idrs vals k x mid tap nows clk hf hfl hlt hgo hk hx p found hs hkept hfault hclk hlen
    refine ⟨_, ?_, read_scanBytes s.hbuf found⟩
    obtain ⟨j, rfl⟩ := Nat.exists_eq_add_of_le hk
    rw [scanPlan_succ _ hlt, List.getElem?_append_right hk, Nat.add_sub_cancel_left] at hx
    have hp : p = scanPlan s.dp.selCache idrs.length ++
        (candidatePlan (selCacheAt s.dp.selCache idrs.length) idrs.length).take j := by
      rw [← List.take_length_add_append, ← scanPlan_succ _ hlt]
    have hplen : p.length = (scanPlan s.dp.selCache idrs.length).length + j := by
      rw [hp, List.length_append, List.length_take_of_le (Nat.le_of_lt (List.getElem?_eq_some_iff.mp hx).1)]
    rw [hp] at hs hkept
    obtain ⟨tap', clk', hruns⟩ := runs_scanned_fault hf hfl hlt hgo hx hs hkept hfault hclk hlen
    rw [exec_apScan hst hv, if_neg (by simp [hf]), launch_of_runs hruns rfl, scanned_afterPlan, ← hp,
      afterPlan_afterFault, hplen, State.completed, ← hst]
    rfl

end Sys2Proof.Machine

/-! ### DP_READ served (R160, R161, R165) -/

namespace Sys2Proof.Machine

section
variable {s : State} {val stale now now' : Word} {clk : List Word} {mid tap : List TapReply}

/-- The pipelined read drops the value of its first access and goes on to RDBUFF (R160, R161). -/
theorem runs_dpRead_to_rdbuff (hf : s.dp.fault = false) (hclk : s.clkIn = now :: clk)
    (hs : servesOk s.dp.variant s.cfg true stale s.tapIn mid) :
    Runs (beginAccess true s.argReg 0 .dpReadFirst (rawCacheEffects s.argReg false 0 s))
      (beginAccess true 0x00C 0 .dpRead ((rawCacheEffects s.argReg false 0 s).afterOk true s.argReg 0 mid clk)) := by
  rw [← resume_dpReadFirst_ok stale]
  exact runs_raw_ok nofun (by simp [hf]) hclk hs

/-- The read of RDBUFF that closes a pipelined read (R160), after the first access has been served. -/
theorem runs_dpRead_rdbuff (hs : servesOk s.dp.variant s.cfg true val mid tap) :
    Runs (beginAccess true 0x00C 0 .dpRead
        ((rawCacheEffects s.argReg false 0 s).afterOk true s.argReg 0 mid (now' :: clk)))
      (resume val .ok ((((rawCacheEffects s.argReg false 0 s).afterOk true s.argReg 0 mid (now' :: clk)).afterOk true
        0x00C 0 tap clk).setCont .dpRead)) :=
  runs_access_ok nofun (not_shortCircuited_of_dp rfl _) rfl (by simpa [State.afterOk, State.afterCalls] using hs)
end

/-- Settles O50: the one access of a DP register; of an AP register the first access and then RDBUFF. -/
theorem dpReadPipelined : Obligations.DpReadPipelined := by
  intro s val tap hst hv
  have hexec := exec_dpRead hst hv
  refine ⟨fun now clk hdp hclk hserved => ?dpRegister,
    fun now now' clk mid stale hap hf hclk hfirst hserved => ?apRegister⟩
  case dpRegister =>
    have hreg : isAp s.argReg = false := hdp
    rw [hreg] at hexec
    exact exec_returns hexec (runs_raw_ok nofun (not_shortCircuited_of_dp hreg s) hclk hserved) (resume_dpRead _ _ _)
      (rawCacheEffects_port _ _ _ s)
  case apRegister =>
    have hreg : isAp s.argReg = true := hap
    rw [hreg] at hexec
    exact exec_returns hexec ((runs_dpRead_to_rdbuff hf hclk hfirst).trans (runs_dpRead_rdbuff hserved))
      (resume_dpRead _ _ _) (rawCacheEffects_port _ _ _ s)

end Sys2Proof.Machine

/-! ### The Access Port register window (R180 to R186), and the entry checks of the memory commands (R201) -/

namespace Sys2Proof.Machine

/-! #### The cache effects of AP_READ and AP_WRITE, as a change of one record (R183) -/

namespace ApTable

variable (t : Vector AccessPort Config.apselCount) (i : Byte)

/-- Two changes of one record are one. -/
theorem change_change (f g : AccessPort → AccessPort) : change i g (change i f t) = change i (fun p => g (f p)) t := by
  refine ext_get fun k => ?_
  by_cases hk : i = k
  · subst hk
    simp
  · simp [get_change_other _ i k _ hk]

/-- A change that leaves its record as it is leaves the table. -/
theorem change_id : change i (fun p => p) t = t :=
  ext_get fun k => by simp [get_change]

end ApTable

/-- What an access of AP_READ or AP_WRITE with outcome `o` leaves of the record of its AP: the table of R183. -/
def AccessPort.afterAccess (reg : Byte) (write : Bool) (value : Word) (o : AccessOutcome)
    (p : AccessPort) : AccessPort :=
  if o ≠ .ok then { p with cswCache := none, tarCache := none }
  else if apRegIndex reg = 0 ∧ write then { p with cswCache := some value }
  else if apRegIndex reg = 1 ∧ write then { p with tarCache := some value }
  else if apRegIndex reg = 3 then { p with tarCache := none }
  else p

section
variable (i reg : Byte) (write : Bool) (value : Word) (o : AccessOutcome) (s : State)

/-- The cache effects are a change of the one record, by the table of R183. -/
theorem apCacheEffects_eq : apCacheEffects i reg write value o s =
    s.setAps (ApTable.change i (AccessPort.afterAccess reg write value o) s.aps) := by
  unfold apCacheEffects AccessPort.afterAccess
  split
  · rw [setTarCache, setCswCache, State.setAps_aps, ApTable.change_change]
    rfl
  split
  · rfl
  split
  · rfl
  split
  · rfl
  · rw [ApTable.change_id]
    rfl

@[simp] theorem apCacheEffects_port : (apCacheEffects i reg write value o s).port = s.port := by
  rw [apCacheEffects_eq]
  rfl

@[simp] theorem apCacheEffects_cont : (apCacheEffects i reg write value o s).cont = s.cont := by
  rw [apCacheEffects_eq]
  rfl

/-- The cache effects do not read which command runs. -/
theorem apCacheEffects_setCont (k : Cont) :
    apCacheEffects i reg write value o (s.setCont k) = (apCacheEffects i reg write value o s).setCont k := by
  rw [apCacheEffects_eq, apCacheEffects_eq]
  rfl
end

/-- Settles O13: the effects change the record of their AP by the table of R183, and nothing else. -/
theorem apCacheEffects_spec : Obligations.ApCacheEffects := by
  intro i reg write value o s t
  have ht : t = s.setAps (ApTable.change i (AccessPort.afterAccess reg write value o) s.aps) :=
    apCacheEffects_eq i reg write value o s
  rw [ht]
  refine ⟨fun j hj => ?other, ?same, rfl⟩
  case other => exact ApTable.get_change_other s.aps i j _ hj.symm
  case same => exact ApTable.get_change_same s.aps i _

/-! #### The entry checks (R181, R186, R201) -/

section
variable {s t : State} {i : Instr}

/-- A command that ends where it begins makes no call. -/
theorem exec_ends_at_entry (hi : i.isCommand = true) (hst : s.stage = .idle) (hbegin : commandBegin i s = t)
    (ht : t.stage = s.stage) : exec i s = .next t := by
  rw [exec_begun hi hst hbegin, launch_idle (ht.trans hst)]

theorem needAp_absent (f : State → State) (hv : s.dp.valid = true) (hp : s.apPresent s.port.argAp = false) :
    needAp f s = setStatus .badAp s := by
  simp [needAp, needDp, hv, hp]

theorem needAp_present (f : State → State) (hv : s.dp.valid = true) (hp : s.apPresent s.port.argAp = true) :
    needAp f s = f s := by
  simp [needAp, needDp, hv, hp]

/-- Each of the four commands that name an AP begins with the checks of R186. -/
theorem commandBegin_needAp (hi : i ∈ [Instr.apRead, .apWrite, .memRead, .memWrite]) :
    i.isCommand = true ∧ ∃ f, commandBegin i = needAp f := by
  simp only [List.mem_cons, List.not_mem_nil, or_false] at hi
  rcases hi with rfl | rfl | rfl | rfl <;> exact ⟨rfl, _, rfl⟩

/-- A memory command begins with the checks of R201. -/
theorem commandBegin_beginMem (hi : i ∈ [Instr.memRead, .memWrite]) :
    i.isCommand = true ∧ ∃ rd, commandBegin i = beginMem rd := by
  simp only [List.mem_cons, List.not_mem_nil, or_false] at hi
  rcases hi with rfl | rfl
  · exact ⟨rfl, true, rfl⟩
  · exact ⟨rfl, false, rfl⟩

theorem needsDp_of_memory (hi : i ∈ [Instr.memRead, .memWrite]) : i ∈ commandsNeedingDp := by
  revert i
  decide

/-- A transfer of length 0 ends OK, whatever the latch holds (R201). -/
theorem beginMem_empty (rd : Bool) (hv : s.dp.valid = true) (hp : s.apPresent s.port.argAp = true)
    (hlen : s.port.argLen = 0) : beginMem rd s = setStatus .ok (setRspCount 0 s) :=
  (needAp_present _ hv hp).trans (if_pos hlen)

/-- On a latched fault a transfer that is not empty ends MEMORY_FAULT (R201, R215). -/
theorem beginMem_latched (rd : Bool) (hv : s.dp.valid = true) (hp : s.apPresent s.port.argAp = true)
    (hlen : s.port.argLen ≠ 0) (hf : s.dp.fault = true) :
    beginMem rd s = setStatus .memoryFault (setRspCount 0 s) :=
  (needAp_present _ hv hp).trans ((if_neg hlen).trans (if_pos hf))

theorem beginApRead_latched (hv : s.dp.valid = true) (hp : s.apPresent s.port.argAp = true) (hf : s.dp.fault = true) :
    beginApRead s = setStatus .ok (setRspValue 0 s) :=
  (needAp_present _ hv hp).trans (if_pos hf)

theorem beginApWrite_latched (hv : s.dp.valid = true) (hp : s.apPresent s.port.argAp = true) (hf : s.dp.fault = true) :
    beginApWrite s = setStatus .ok s :=
  (needAp_present _ hv hp).trans (if_pos hf)
end

/-- Settles O44: the four commands share the check that refuses an absent AP. -/
theorem absentApRefused : Obligations.AbsentApRefused := by
  intro i hi s hst hv hp
  obtain ⟨hcommand, f, hbegin⟩ := commandBegin_needAp hi
  refine exec_ends_at_entry (t := setStatus .badAp s) hcommand hst ?_ rfl
  rw [hbegin, needAp_absent f hv hp]

/-- Settles O45: each check in its order ends the command where it begins. -/
theorem entryChecks : Obligations.EntryChecks := by
  intro s hst
  refine ⟨fun i hi => ?memory, fun hv hp hf => ⟨?apRead, ?apWrite⟩⟩
  case memory =>
    obtain ⟨hcommand, rd, hbegin⟩ := commandBegin_beginMem hi
    have hends {t : State} (ht : beginMem rd s = t) (hstage : t.stage = s.stage) : exec i s = .next t :=
      exec_ends_at_entry hcommand hst (hbegin ▸ ht) hstage
    refine ⟨fun hv => ?noDp, fun hv hp => ?badAp, fun hv hp hlen => ?empty, fun hv hp hlen hf => ?latched⟩
    case noDp => exact exec_noDp (needsDp_of_memory hi) hst hv
    case badAp => exact absentApRefused i (List.mem_cons_of_mem _ (List.mem_cons_of_mem _ hi)) s hst hv hp
    case empty => exact hends (beginMem_empty rd hv hp hlen) rfl
    case latched => exact hends (beginMem_latched rd hv hp hlen hf) rfl
  case apRead => exact exec_ends_at_entry rfl hst (beginApRead_latched hv hp hf) rfl
  case apWrite => exact exec_ends_at_entry rfl hst (beginApWrite_latched hv hp hf) rfl

/-! #### AP_READ and AP_WRITE served OK (R180 to R183) -/

@[simp] theorem State.afterOk_port (s : State) (rnw : Bool) (addr : BitVec 9) (wval : Word) (tap : List TapReply)
    (clk : List Word) : (s.afterOk rnw addr wval tap clk).port = s.port := rfl

section
variable {s t : State}

/-- The closing RDBUFF read of AP_READ: the cache effects of its register, and the value is returned (R181, R183). -/
theorem resume_apRead_last (hport : t.port = s.port) (v : Word) : resume v .ok (t.setCont (.ap .read .last)) =
    ((apCacheEffects s.port.argAp s.argApReg false 0 .ok t).returning v).completed .ok := by
  have hdone : resume v .ok (t.setCont (.ap .read .last)) =
      finish .ok (setRspValue v (apCacheEffects t.port.argAp t.argApReg false 0 .ok (t.setCont (.ap .read .last)))) := rfl
  rw [hdone, apCacheEffects_setCont, finish_eq_completed rfl, State.argApReg, hport]
  rfl

/-- The write of AP_WRITE: the cache effects of its register and value (R182, R183). -/
theorem resume_apWrite_last (hport : t.port = s.port) (v : Word) : resume v .ok (t.setCont (.ap .write .last)) =
    (apCacheEffects s.port.argAp s.argApReg true s.port.argValue .ok t).completed .ok := by
  have hdone : resume v .ok (t.setCont (.ap .write .last)) =
      finish .ok (apCacheEffects t.port.argAp t.argApReg true t.port.argValue .ok (t.setCont (.ap .write .last))) := rfl
  rw [hdone, apCacheEffects_setCont, finish_eq_completed rfl, State.argApReg, hport]
  rfl
end

section
variable {s u : State} {now now' now0 stale val : Word} {clk : List Word} {mid tap : List TapReply}

/-- AP_READ once SELECT names the AP: the read, whose value is dropped, and RDBUFF, whose value is returned
(R160, R181, R183). -/
theorem exec_apRead_served (hst : s.stage = .idle) (hv : s.dp.valid = true) (hp : s.apPresent s.port.argAp = true)
    (hf : s.dp.fault = false) (hsel : s.selects s.port.argAp (bankOf s.argApReg) u)
    (hclk : u.clkIn = now :: now' :: clk) (hfirst : servesOk s.dp.variant s.cfg true stale u.tapIn mid)
    (hserved : servesOk s.dp.variant s.cfg true val mid tap) :
    exec .apRead s = .next ({ apCacheEffects s.port.argAp s.argApReg false 0 .ok
        ((u.afterOk true (apAddress s.argApReg) 0 mid (now' :: clk)).afterOk true 0x00C 0 tap clk) with
      port := { s.port with rspValue := val } }.completed .ok) := by
  obtain ⟨hlatch, hlink, hcfg, hport⟩ := selects_frame hsel
  rw [← hlink, ← hcfg] at hfirst hserved
  have hread := runs_access_ok (s := u) (addr := apAddress s.argApReg) (wval := 0) (k := .ap .read .first) nofun
    (by simp [hlatch, hf]) hclk hfirst
  rw [resume_apRead_first] at hread
  have hrdbuff := runs_access_ok (s := u.afterOk true (apAddress s.argApReg) 0 mid (now' :: clk)) (addr := 0x00C)
    (wval := 0) (k := .ap .read .last) nofun (not_shortCircuited_of_dp rfl _) rfl hserved
  have hruns := (runs_selects .read hsel).trans (apIssue_read hport ▸ hread.trans hrdbuff)
  exact exec_returns (exec_apRead hst hv hp hf) hruns (resume_apRead_last (by simpa using hport) val)
    (by simpa using hport)

/-- AP_WRITE once SELECT names the AP: the one write (R182, R183). -/
theorem exec_apWrite_served (hst : s.stage = .idle) (hv : s.dp.valid = true) (hp : s.apPresent s.port.argAp = true)
    (hf : s.dp.fault = false) (hsel : s.selects s.port.argAp (bankOf s.argApReg) u) (hclk : u.clkIn = now :: clk)
    (hserved : servesOk s.dp.variant s.cfg false 0 u.tapIn tap) :
    exec .apWrite s = .next ((apCacheEffects s.port.argAp s.argApReg true s.port.argValue .ok
      (u.afterOk false (apAddress s.argApReg) s.port.argValue tap clk)).completed .ok) := by
  obtain ⟨hlatch, hlink, hcfg, hport⟩ := selects_frame hsel
  rw [← hlink, ← hcfg] at hserved
  have hwrite := runs_access_ok (s := u) (addr := apAddress s.argApReg) (wval := s.port.argValue)
    (k := .ap .write .last) nofun (by simp [hlatch, hf]) hclk hserved
  have hruns := (runs_selects .write hsel).trans (apIssue_write hport ▸ hwrite)
  exact exec_completes (exec_apWrite hst hv hp hf) hruns (resume_apWrite_last (by simpa using hport) 0)

/-- On a SELECT cache hit SELECT is not written (R180). -/
theorem selects_hit {i : Byte} {b : BitVec 4} (hhit : s.dp.selCache = some (i, b)) : s.selects i b s :=
  .inl ⟨hhit, rfl⟩

/-- On a miss SELECT is written, and the cache holds the pair (R180). -/
theorem selects_miss {i : Byte} {b : BitVec 4} (hmiss : s.dp.selCache ≠ some (i, b)) (hclk : s.clkIn = now0 :: clk)
    (hserved : servesOk s.dp.variant s.cfg false 0 s.tapIn mid) :
    s.selects i b (setSelCache (some (i, b)) (s.afterOk false 0x008 (selectValue i b) mid clk)) :=
  .inr ⟨hmiss, now0, clk, mid, hclk, hserved, rfl⟩
end

/-- Settles O53: the served read, after SELECT was found cached and after it was written. -/
theorem apReadReturns : Obligations.ApReadReturns := by
  intro s now now' clk stale val mid mid' tap hst hv hp hf i reg bank read hfirst hserved
  refine ⟨fun hhit htap hclk => ?hit, fun now0 hmiss hselect hclk => ?miss⟩
  case hit =>
    exact exec_apRead_served hst hv hp hf (selects_hit hhit) hclk (htap ▸ hfirst) hserved
  case miss =>
    exact exec_apRead_served hst hv hp hf (selects_miss hmiss hclk hselect) rfl hfirst hserved

/-- Settles O54: the served write, after SELECT was found cached and after it was written. -/
theorem apWriteSends : Obligations.ApWriteSends := by
  intro s now clk mid tap hst hv hp hf i reg bank write hserved
  refine ⟨fun hhit htap hclk => ?hit, fun now0 hmiss hselect hclk => ?miss⟩
  case hit =>
    exact exec_apWrite_served hst hv hp hf (selects_hit hhit) hclk (htap ▸ hserved)
  case miss =>
    exact exec_apWrite_served hst hv hp hf (selects_miss hmiss hclk hselect) rfl hserved

end Sys2Proof.Machine

/-! ### The memory engine (43_mem_engine.md) -/

namespace Sys2Proof.Machine

/-! #### The access size -/

/-- The low bits of two words are zero together exactly if both are multiples (R203). -/
theorem extractLow_or_eq_zero_iff (x y : Word) (k : Nat) :
    (x ||| y).extractLsb' 0 k = 0 ↔ x.toNat % 2 ^ k = 0 ∧ y.toNat % 2 ^ k = 0 := by
  rw [BitVec.extractLsb'_or, ← extractLow_eq_zero_iff, ← extractLow_eq_zero_iff]
  exact BitVec.or_eq_zero_iff

/-- Bit 0 of two words is clear exactly if both are even (R203). -/
theorem or_bit_zero_iff (x y : Word) :
    (x ||| y).getLsbD 0 = false ↔ x.toNat % 2 = 0 ∧ y.toNat % 2 = 0 := by
  have heven : ∀ z : Word, z.getLsbD 0 = false ↔ z.toNat % 2 = 0 := fun z => by
    simp [BitVec.getLsbD, Nat.testBit_zero]
  rw [BitVec.getLsbD_or, Bool.or_eq_false_iff, heven, heven]

/-- The access size in plain terms (R203). -/
theorem accessSize_eq (addr len : Word) : accessSize addr len =
    (if addr.toNat % 4 = 0 ∧ len.toNat % 4 = 0 then 2
     else if addr.toNat % 2 = 0 ∧ len.toNat % 2 = 0 then 1 else 0) := by
  unfold accessSize
  simp only [extractLow_or_eq_zero_iff addr len 2, or_bit_zero_iff]
  rfl

/-- The units of a transfer cover its length exactly (R202, R203). -/
theorem units_mul_unitSize (addr len : Word) :
    (len >>> (accessSize addr len).toNat).toNat * unitSize (accessSize addr len) = len.toNat := by
  rw [BitVec.toNat_ushiftRight, Nat.shiftRight_eq_div_pow]
  exact Nat.div_mul_cancel (Nat.dvd_of_mod_eq_zero (accessSize_divides addr len).2.2)

/-- The unit as a word is the unit as a number (R202). -/
theorem unitBytes_toNat (sz : BitVec 2) : (unitBytes sz).toNat = unitSize sz := by
  revert sz
  decide

/-- The unit as a number is the unit as a word (R202). -/
theorem unitBytes_eq_ofNat (sz : BitVec 2) : unitBytes sz = BitVec.ofNat 32 (unitSize sz) := by
  revert sz
  decide

/-- Settles O8: the size by its two tests, and the unit that divides address and length. -/
theorem accessSizeDivides : Obligations.AccessSizeDivides := by
  intro addr len
  obtain ⟨-, haddr, hlen⟩ := accessSize_divides addr len
  exact ⟨accessSize_eq addr len, haddr, hlen, units_mul_unitSize addr len, fun sz => ⟨rfl, unitBytes_toNat sz⟩⟩

/-! #### The window as units move: where a chunk ends (R206, R207, R209) -/

/-- The window once one more unit is confirmed (R207, R209). -/
def Window.next (w : Window) : Window := { w with a := w.a + unitBytes w.sz, done := w.done + 1 }

/-- The window still has `n` units to move, up to the address `e`. -/
structure Window.Ahead (w : Window) (n : Nat) (e : Word) : Prop where
  size : w.sz ≠ 3
  aligned : w.a.toNat % unitSize w.sz = 0
  left : w.done.toNat + n = w.units.toNat
  ends : w.a + BitVec.ofNat 32 n * unitBytes w.sz = e

/-- Of the `n` units of the window `k` remain in its chunk (R206). -/
structure Window.InChunk (w : Window) (c : Config) (k n : Nat) : Prop where
  pos : 1 ≤ k
  le : k ≤ n
  fits : blockOffset c w.a + k * unitSize w.sz ≤ 2 ^ c.tarWrapBits
  fills : k = n ∨ blockOffset c w.a + k * unitSize w.sz = 2 ^ c.tarWrapBits

section
variable {c : Config} {w : Window} {k n : Nat} {e : Word}

/-- A chunk begins where units remain (R206). -/
theorem Window.Ahead.inChunk (h : w.Ahead n e) (hn : 0 < n) : w.InChunk c (chunkUnits c w) n := by
  have hleft := h.left
  obtain ⟨-, hpos, hle, hfits, hfills⟩ := chunkStaysInBlock.2 c w h.size h.aligned (by omega)
  have hn : w.units.toNat - w.done.toNat = n := by omega
  rw [hn] at hle hfills
  exact ⟨hpos, hle, hfits, hfills⟩

/-- Units remain exactly if the loop of R206 goes on. -/
theorem Window.Ahead.done_lt_iff (h : w.Ahead n e) : w.done < w.units ↔ 0 < n := by
  have hleft := h.left
  rw [BitVec.lt_def]
  omega

/-- The count of confirmed units does not overflow (R207, R209). -/
theorem Window.Ahead.done_next (h : w.Ahead (n + 1) e) : w.next.done.toNat = w.done.toNat + 1 := by
  have hleft := h.left
  have hlt := w.units.isLt
  show (w.done + 1).toNat = _
  rw [BitVec.toNat_add_of_not_uaddOverflow]
  · rfl
  · simp [BitVec.uaddOverflow]
    omega

/-- One unit fewer is left; the address may wrap around (R216). -/
theorem Window.Ahead.next (h : w.Ahead (n + 1) e) : w.next.Ahead n e where
  size := h.size
  aligned := by
    have hdvd : unitSize w.sz ∣ 2 ^ 32 := (unitSize_dvd_word h.size).trans ⟨2 ^ 30, rfl⟩
    have hsum : (w.a + unitBytes w.sz).toNat = (w.a.toNat + unitSize w.sz) % 2 ^ 32 := by
      rw [BitVec.toNat_add, unitBytes_toNat]
    show (w.a + unitBytes w.sz).toNat % unitSize w.sz = 0
    rw [hsum, Nat.mod_mod_of_dvd _ hdvd, Nat.add_mod_right]
    exact h.aligned
  left := by
    rw [h.done_next, Nat.add_assoc, Nat.add_comm 1]
    exact h.left
  ends := by
    rw [← h.ends, BitVec.ofNat_add, BitVec.add_mul, BitVec.one_mul, BitVec.add_comm _ (unitBytes w.sz),
      ← BitVec.add_assoc]
    rfl

/-- The offset in the block moves with the unit, and is 0 again at the boundary, that of the address space included
(R206, R216). -/
theorem blockOffset_next (c : Config) (w : Window) :
    blockOffset c w.next.a = (blockOffset c w.a + unitSize w.sz) % 2 ^ c.tarWrapBits := by
  have hdvd : 2 ^ c.tarWrapBits ∣ 2 ^ 32 := pow_dvd_pow 2 (tarWrapBits_bounds c).2
  show (w.a + unitBytes w.sz).toNat % _ = (w.a.toNat % _ + unitSize w.sz) % _
  rw [BitVec.toNat_add, unitBytes_toNat, Nat.mod_mod_of_dvd _ hdvd, Nat.mod_add_mod]

/-- Before the last unit of a chunk the offset stays in the block (R206). -/
theorem Window.InChunk.blockOffset_next (h : w.InChunk c k n) (hk : k ≠ 1) :
    blockOffset c w.next.a = blockOffset c w.a + unitSize w.sz := by
  have hpos := h.pos
  have hfits := h.fits
  have hunit : 0 < unitSize w.sz := Nat.two_pow_pos _
  have htwo : 2 * unitSize w.sz ≤ k * unitSize w.sz := Nat.mul_le_mul_right _ (by omega)
  rw [Machine.blockOffset_next, Nat.mod_eq_of_lt (by omega)]

/-- The last unit of a chunk is the last of all, or the one after it begins a block (R206). -/
theorem Window.InChunk.last_iff (h : w.InChunk c k (n + 1)) : (n = 0 ∨ blockOffset c w.next.a = 0) ↔ k = 1 := by
  refine ⟨fun hlast => ?chunk, fun hk => ?boundary⟩
  case chunk =>
    by_contra hk
    have hpos := h.pos
    have hle := h.le
    have hunit : 0 < unitSize w.sz := Nat.two_pow_pos _
    rw [h.blockOffset_next hk] at hlast
    omega
  case boundary =>
    subst hk
    rcases h.fills with hall | hend
    · exact .inl (by omega)
    · rw [Machine.blockOffset_next, ← hend, Nat.one_mul, Nat.mod_self]
      exact .inr rfl

/-- Within a chunk (R206). -/
theorem Window.InChunk.next (h : w.InChunk c k (n + 1)) (hk : k ≠ 1) : w.next.InChunk c (k - 1) n := by
  have hroom : blockOffset c w.next.a + (k - 1) * unitSize w.sz = blockOffset c w.a + k * unitSize w.sz := by
    rw [h.blockOffset_next hk, Nat.add_assoc, Nat.add_comm (unitSize w.sz), ← Nat.succ_mul, Nat.succ_eq_add_one,
      Nat.sub_add_cancel h.pos]
  obtain ⟨hpos, hle, hfits, hfills⟩ := h
  refine ⟨by omega, by omega, hroom ▸ hfits, hfills.imp (fun hall => by omega) (fun hend => hroom.trans hend)⟩
end

/-! #### The accesses of the data loop, for both directions (R205 to R211) -/

/-- The unit `load_unit` sends (R210). -/
def Window.load (w : Window) (m : List Host.Cell) : Word :=
  placeLane w.sz w.a (unitFromBytes m (w.done.toNat * unitSize w.sz) (unitSize w.sz))

/-- HBUF once `store_unit` has stored the unit of a DRW value (R208). -/
def Window.store (w : Window) (v : Word) (m : List Host.Cell) : List Host.Cell :=
  Memory.writeBytes m (w.done.toNat * unitSize w.sz) (unitToBytes (unitSize w.sz) (takeLane w.sz w.a v))

/-- TAR, unless it is right (R205). -/
def tarPlan (right : Bool) (a : Word) : List PlanItem := if right then [] else [⟨false, Config.apTar, a, false⟩]

/-- The priming read of a chunk of MEM_READ, whose value is dropped (R207). -/
def primePlan (rd : Bool) : List PlanItem := if rd then [⟨true, Config.apDrw, 0, false⟩] else []

/-- The access that confirms one unit: a read of DRW, or of RDBUFF for the last unit of a chunk, or the write of the
unit `x` (R207, R209). -/
def unitItem (rd last : Bool) (x : Word) : PlanItem :=
  if rd then ⟨true, if last then Config.dpRdbuff else Config.apDrw, 0, true⟩ else ⟨false, Config.apDrw, x, true⟩

/-- The data loop over the next `n` units of a window, `m` being the buffer MEM_WRITE sends from. -/
def dataPlan (c : Config) (m : List Host.Cell) (rd : Bool) : Bool → Bool → Window → Nat → List PlanItem
  | _, _, _, 0 => []
  | begins, right, w, n + 1 =>
    (if begins then tarPlan right w.a ++ primePlan rd else []) ++
      unitItem rd (n = 0 ∨ blockOffset c w.next.a = 0) (w.load m) ::
        dataPlan c m rd (n = 0 ∨ blockOffset c w.next.a = 0) false w.next n

section
variable {c : Config} {w : Window} {n : Nat} {e : Word}

/-- The loop of MEM_READ (R207). -/
theorem readPlan_eq_dataPlan (m : List Host.Cell) (begins right : Bool) :
    readPlan c w.sz begins right w.a n = dataPlan c m true begins right w n := by
  induction n generalizing w begins right with
  | zero => rfl
  | succ n ih =>
    have hrest (b : Bool) : readPlan c w.sz b false (w.a + unitBytes w.sz) n = dataPlan c m true b false w.next n :=
      ih (w := w.next) b false
    rw [readPlan, dataPlan, hrest, hrest]
    by_cases hlast : n = 0 ∨ blockOffset c (w.a + unitBytes w.sz) = 0 <;>
      simp [unitItem, Window.next, hlast, tarPlan, primePlan]

/-- The loop of MEM_WRITE (R209). -/
theorem writePlan_eq_dataPlan (m : List Host.Cell) (begins right : Bool) (h : w.Ahead n e) :
    writePlan c m w.sz begins right w.a w.done.toNat n = dataPlan c m false begins right w n := by
  induction n generalizing w begins right with
  | zero => rfl
  | succ n ih =>
    have hrest (b : Bool) : writePlan c m w.sz b false (w.a + unitBytes w.sz) (w.done.toNat + 1) n =
        dataPlan c m false b false w.next n := by
      rw [← h.done_next]
      exact ih b false h.next
    have hnext : dataPlan c m false (blockOffset c w.next.a = 0) false w.next n =
        dataPlan c m false (n = 0 ∨ blockOffset c w.next.a = 0) false w.next n := by
      cases n with
      | zero => rfl
      | succ n => simp only [Nat.succ_ne_zero, false_or]
    have hopens : (if begins ∧ ¬ right then [⟨false, Config.apTar, w.a, false⟩] else []) =
        if begins then tarPlan right w.a ++ primePlan false else [] := by
      cases begins <;> cases right <;> rfl
    rw [writePlan, dataPlan, hrest, hopens, ← hnext]
    rfl

/-- A chunk that begins: TAR unless it is right, for a read the priming read, then as within a chunk (R205, R207). -/
theorem dataPlan_begins (m : List Host.Cell) (rd right : Bool) (hn : 0 < n) : dataPlan c m rd true right w n =
    (tarPlan right w.a ++ primePlan rd) ++ dataPlan c m rd false false w n := by
  cases n with
  | zero => exact absurd hn (Nat.lt_irrefl 0)
  | succ n => rfl
end

/-! #### The values kept, and HBUF after MEM_READ (R208) -/

/-- The value of a unit's access is kept (R207). -/
theorem keptValues_unitItem (rd last : Bool) (x v : Word) (p : List PlanItem) (vals : List Word) :
    keptValues (unitItem rd last x :: p) (v :: vals) = v :: keptValues p vals := by
  cases rd <;> rfl

theorem tarPlan_keeps (right : Bool) (a : Word) : ∀ x ∈ tarPlan right a, x.keeps = false := by
  cases right <;> simp [tarPlan]

theorem primePlan_keeps (rd : Bool) : ∀ x ∈ primePlan rd, x.keeps = false := by
  cases rd <;> simp [primePlan]

/-- The values kept are as many as the accesses that keep theirs. -/
theorem length_keptValues {p : List PlanItem} {vals : List Word} (h : vals.length = p.length) :
    (keptValues p vals).length = p.countP (·.keeps) := by
  have hitems : (p.zip vals).map Prod.fst = p := List.map_fst_zip h.ge
  rw [keptValues, List.length_map, ← List.countP_eq_length_filter]
  conv_rhs => rw [← hitems, List.countP_map]
  rfl

/-- One value is kept for each unit (R207). -/
theorem countP_keeps_dataPlan (c : Config) (m : List Host.Cell) (rd begins right : Bool) (w : Window) (n : Nat) :
    (dataPlan c m rd begins right w n).countP (·.keeps) = n := by
  induction n generalizing begins right w with
  | zero => rfl
  | succ n ih =>
    have hopens : (if begins then tarPlan right w.a ++ primePlan rd else []).countP (·.keeps) = 0 := by
      rw [List.countP_eq_zero]
      cases begins <;> cases right <;> cases rd <;> simp [tarPlan, primePlan]
    have hunit (last : Bool) (x : Word) : (unitItem rd last x).keeps = true := by cases rd <;> rfl
    rw [dataPlan, List.countP_append, hopens, List.countP_cons_of_pos (hunit _ _), ih, Nat.zero_add]

/-- The bytes of the units in the lanes of successive DRW values, from address `a` (R208, R216). -/
def laneBytes (sz : BitVec 2) : Word → List Word → List Byte
  | _, [] => []
  | a, v :: vs => unitToBytes (unitSize sz) (takeLane sz a v) ++ laneBytes sz (a + unitBytes sz) vs

/-- Byte `j` is byte `j % u` of the unit `j / u`, taken from the lane of that unit's address (R66, R67, R208). -/
theorem laneBytes_getElem? (sz : BitVec 2) (a : Word) (vs : List Word) (j : Nat) :
    (laneBytes sz a vs)[j]? = vs[j / unitSize sz]?.map fun v =>
      (takeLane sz (a + BitVec.ofNat 32 (j / unitSize sz * unitSize sz)) v).extractLsb' (8 * (j % unitSize sz)) 8 := by
  have hlength (x : Word) : (unitToBytes (unitSize sz) x).length = unitSize sz := by simp [unitToBytes]
  have hpos : 0 < unitSize sz := Nat.two_pow_pos _
  induction vs generalizing a j with
  | nil => rfl
  | cons v vs ih =>
    rw [laneBytes]
    by_cases hj : j < unitSize sz
    · rw [List.getElem?_append_left (by rwa [hlength]), Nat.div_eq_of_lt hj, Nat.mod_eq_of_lt hj]
      simp [unitToBytes, hj]
    · obtain ⟨i, rfl⟩ := Nat.exists_eq_add_of_le (not_lt.mp hj)
      have haddr : a + unitBytes sz + BitVec.ofNat 32 (i / unitSize sz * unitSize sz) =
          a + BitVec.ofNat 32 ((i / unitSize sz + 1) * unitSize sz) := by
        rw [unitBytes_eq_ofNat, Nat.succ_mul, Nat.add_comm (_ * _), BitVec.ofNat_add, BitVec.add_assoc]
      rw [List.getElem?_append_right (by rw [hlength]; omega), hlength, Nat.add_sub_cancel_left, ih, haddr,
        Nat.add_div_left _ hpos, Nat.add_mod_left]
      rfl

/-- HBUF once the units of these DRW values are stored (R208). -/
def Window.stored (w : Window) (vs : List Word) (m : List Host.Cell) : List Host.Cell :=
  Memory.writeBytes m (w.done.toNat * unitSize w.sz) (laneBytes w.sz w.a vs)

section
variable {w : Window} {n : Nat} {e : Word}

/-- The first unit is stored, then the others (R208). -/
theorem Window.Ahead.stored_cons (h : w.Ahead (n + 1) e) (v : Word) (vs : List Word) (m : List Host.Cell) :
    w.stored (v :: vs) m = w.next.stored vs (w.store v m) := by
  have hindex : w.done.toNat * unitSize w.sz + (unitToBytes (unitSize w.sz) (takeLane w.sz w.a v)).length =
      w.next.done.toNat * unitSize w.sz := by
    rw [h.done_next, Nat.succ_mul, unitToBytes, List.length_map, List.length_range]
  rw [Window.stored, laneBytes, writeBytes_append, hindex]
  rfl

/-- HBUF after units whose DRW values were `vs`: a read stores them, a write leaves it as it is (R208, R209). -/
def hbufAfter (rd : Bool) (w : Window) (vs : List Word) (m : List Host.Cell) : List Host.Cell :=
  if rd then w.stored vs m else m

theorem Window.Ahead.hbufAfter_cons (h : w.Ahead (n + 1) e) (rd : Bool) (v : Word) (vs : List Word)
    (m : List Host.Cell) : hbufAfter rd w (v :: vs) m = hbufAfter rd w.next vs (if rd then w.store v m else m) := by
  cases rd with
  | false => rfl
  | true => exact h.stored_cons v vs m
end

/-! #### The answers that serve a list of accesses, cut where the list is (R132 to R134) -/

/-- From `t` the answers of the transport serve the accesses `p` OK, returning `vals`, with a clock reading for each;
`tap` and `clk` are left. -/
def State.Served (t : State) (p : List PlanItem) (vals : List Word) (tap : List TapReply) (clk : List Word) : Prop :=
  servesPlan t.dp.variant t.cfg p vals t.tapIn tap ∧ ∃ nows, t.clkIn = nows ++ clk ∧ nows.length = p.length

section
variable {t : State} {p q : List PlanItem} {vals : List Word} {tap : List TapReply} {clk : List Word}

theorem State.Served.length (h : t.Served p vals tap clk) : vals.length = p.length := servesPlan_length h.1

/-- Where there is no access nothing is returned and no answer is taken. -/
theorem State.Served.nil (h : t.Served [] vals tap clk) : vals = [] ∧ t.tapIn = tap ∧ t.clkIn = clk := by
  obtain ⟨hserves, nows, hclk, hlen⟩ := h
  obtain rfl := List.eq_nil_of_length_eq_zero hlen
  obtain rfl := List.eq_nil_of_length_eq_zero (servesPlan_length hserves)
  exact ⟨rfl, hserves, hclk⟩

theorem State.Served.afterPlan_nil (h : t.Served [] vals tap clk) : t.afterPlan [] tap clk = t := by
  obtain ⟨-, rfl, rfl⟩ := h.nil
  exact Machine.afterPlan_nil t

/-- The accesses `p`, and then the accesses `q`. -/
theorem State.Served.append (h : t.Served (p ++ q) vals tap clk) : ∃ vp vq mid clk', vals = vp ++ vq ∧
    t.Served p vp mid clk' ∧ (t.afterPlan p mid clk').Served q vq tap clk := by
  obtain ⟨hserves, nows, hclk, hlen⟩ := h
  obtain ⟨vp, vq, mid, rfl, hp, hq⟩ := servesPlan_append hserves
  obtain ⟨np, nq, rfl, hnp, hnq⟩ := exists_append_of_length_add (hlen.trans (List.length_append ..))
  exact ⟨vp, vq, mid, nq ++ clk, rfl, ⟨hp, np, by simpa using hclk, hnp⟩, hq, nq, rfl, hnq⟩

/-- One access served, the command goes on with its value (R132, R133, R134). -/
theorem State.Served.runs_item {x : PlanItem} (h : t.Served [x] vals tap clk) (hf : t.dp.fault = false) {k : Cont}
    (hk : k ≠ .scan) : ∃ v, vals = [v] ∧
      Runs (beginAccess x.rnw x.addr x.wval k t) (resume v .ok ((t.afterPlan [x] tap clk).setCont k)) := by
  obtain ⟨hserves, nows, hclk, hlen⟩ := h
  obtain ⟨v, rfl⟩ := List.length_eq_one_iff.mp (servesPlan_length hserves)
  obtain ⟨now, rfl⟩ := List.length_eq_one_iff.mp hlen
  obtain ⟨mid, hitem, hrest⟩ := hserves
  obtain rfl : mid = tap := hrest
  rw [afterPlan_single]
  exact ⟨v, rfl, runs_access_ok hk (by simp [hf]) hclk hitem⟩
end

/-! #### What a transfer served OK leaves (R206, R211) -/

/-- The TAR cache after a chunk that ends before address `e` (R211). -/
def tarAfter (c : Config) (e : Word) : Option Word := if blockOffset c e ≠ 0 then some e else none

/-- `t` once the accesses `p` that a transfer had left are served OK and it has ended: the TAR cache `tar`, the buffer
`m`, the count, the status (R206); `win` is undefined from here on (R24). -/
def State.transferred (t : State) (p : List PlanItem) (tar : Option Word) (m : List Host.Cell) (tap : List TapReply)
    (clk : List Word) : State :=
  let n := t.nonce + p.length
  { t.afterPlan p tap clk with
    win := ⟨Config.freeWinSz n, Config.freeWinInc n, Config.freeWinA n, Config.freeWinDone n, Config.freeWinUnits n⟩
    nonce := n + 1
    port := { t.port with rspStatus := 0, rspCount := t.port.argLen }
    aps := ApTable.change t.port.argAp (fun r => { r with tarCache := tar }) t.aps
    hbuf := m
    stage := .idle
    acc := Access.none
    cont := .none }

section
variable (t : State) (p q : List PlanItem) (tar tar' : Option Word) (m : List Host.Cell) (tap tap' : List TapReply)
  (clk clk' : List Word)

theorem transferred_afterPlan : (t.afterPlan p tap' clk').transferred q tar m tap clk =
    t.transferred (p ++ q) tar m tap clk := by
  simp only [State.transferred, afterPlan_afterPlan, List.length_append, ← Nat.add_assoc]
  rfl

theorem transferred_setTarCache : (setTarCache t.port.argAp tar' t).transferred p tar m tap clk =
    t.transferred p tar m tap clk := by
  simp only [State.transferred, setTarCache_aps, setTarCache_port, ApTable.change_change]
  rfl
end

/-- A change of a record is what it makes of it. -/
theorem ApTable.change_congr {t : Vector AccessPort Config.apselCount} {i : Byte} {f g : AccessPort → AccessPort}
    (h : f (ApTable.get t i) = g (ApTable.get t i)) : ApTable.change i f t = ApTable.change i g t := by
  rw [ApTable.change, h]
  rfl

/-- A change that leaves record `i` as it is leaves the table. -/
theorem ApTable.change_eq_self {t : Vector AccessPort Config.apselCount} {i : Byte} {f : AccessPort → AccessPort}
    (h : f (ApTable.get t i) = ApTable.get t i) : ApTable.change i f t = t :=
  (ApTable.change_congr h).trans (ApTable.change_id t i)

section
variable {t : State}

theorem change_tarCache (i : Byte) :
    ApTable.change i (fun r => { r with tarCache := t.tarCache i }) t.aps = t.aps :=
  ApTable.change_eq_self rfl

theorem change_cswCache (i : Byte) :
    ApTable.change i (fun r => { r with cswCache := t.cswCache i }) t.aps = t.aps :=
  ApTable.change_eq_self rfl

/-- TAR's cache set to what it holds (R205). -/
theorem setTarCache_tarCache (i : Byte) : setTarCache i (t.tarCache i) t = t :=
  congrArg t.setAps (change_tarCache i)

/-- CSW's cache set to what it holds (R204). -/
theorem setCswCache_cswCache (i : Byte) : setCswCache i (t.cswCache i) t = t :=
  congrArg t.setAps (change_cswCache i)

/-- The end of a transfer with no access left (R206). -/
theorem memDone_eq (hm : t.cont.isMem = true) : memDone t =
    t.transferred [] (t.tarCache t.port.argAp) t.hbuf t.tapIn t.clkIn := by
  have hmem : (setRspCount t.port.argLen t).cont.isMem = true := hm
  rw [memDone, finish_eq, if_pos hmem, State.transferred, change_tarCache]
  rfl
end

/-! #### One unit, and the opening of a chunk (R205, R207, R209) -/

/-- The access for the next unit, `k` units of the chunk not yet confirmed (R207, R209). -/
def memNext (rd : Bool) (k : Nat) (t : State) : State := if rd then memReadNext k t else memWriteNext k t

/-- A unit confirmed: a read has stored it, and the window moves on (R207, R209). -/
def State.unitMoved (t : State) (rd : Bool) (v : Word) : State :=
  (t.setHbuf (if rd then t.win.store v t.hbuf else t.hbuf)).setWin t.win.next

section
variable {t : State} {rd : Bool} {k : Nat} {vals : List Word} {tap : List TapReply} {clk : List Word}

/-- The access of a unit is a read of the pipeline or a write of the buffer's unit (R207, R209). -/
theorem memNext_eq (rd : Bool) (k : Nat) (t : State) : memNext rd k t =
    beginAccess (unitItem rd (k ≤ 1) (t.win.load t.hbuf)).rnw (unitItem rd (k ≤ 1) (t.win.load t.hbuf)).addr
      (unitItem rd (k ≤ 1) (t.win.load t.hbuf)).wval (.mem rd (.unit k)) t := by
  cases rd with
  | false => rfl
  | true =>
    by_cases hk : k ≤ 1 <;> simp [memNext, memReadNext, unitItem, hk]

theorem memNext_setCont (k' : Cont) : memNext rd k (t.setCont k') = memNext rd k t := by
  rw [memNext_eq, memNext_eq]
  rfl

theorem memData_setCont (k' : Cont) : memData rd k (t.setCont k') = memData rd k t := by
  cases rd <;> rfl

/-- The access of a unit served: the unit is confirmed (R207, R209). -/
theorem resume_unit (v : Word) : resume v .ok (t.setCont (.mem rd (.unit k))) =
    memUnitDone rd (k - 1) ((t.unitMoved rd v).setCont (.mem rd (.unit k))) := by
  cases rd <;> rfl

/-- A unit that is not the last of its chunk is followed by the next one (R207, R209). -/
theorem memUnitDone_next {k' : Cont} (hk : k ≠ 0) : memUnitDone rd k (t.setCont k') = memNext rd k t := by
  rw [memUnitDone, if_neg hk, ← memNext, memNext_setCont]

/-- The chunk loop while units remain (R205, R206). -/
theorem memChunk_opens (hlt : t.win.done < t.win.units) : memChunk rd t =
    if t.tarCache t.port.argAp = some t.win.a then memData rd (chunkUnits t.cfg t.win) t
    else beginAccess false Config.apTar t.win.a (.mem rd (.tar (chunkUnits t.cfg t.win))) t :=
  if_pos hlt

theorem memChunk_setCont (hlt : t.win.done < t.win.units) (k' : Cont) : memChunk rd (t.setCont k') = memChunk rd t := by
  rw [memChunk_opens hlt, memChunk_opens (t := t.setCont k') hlt, memData_setCont]
  rfl

/-- TAR is written unless it is right (R205). -/
theorem runs_tar {right : Bool} (hlt : t.win.done < t.win.units) (hf : t.dp.fault = false)
    (hright : right = decide (t.tarCache t.port.argAp = some t.win.a))
    (hs : t.Served (tarPlan right t.win.a) vals tap clk) :
    Runs (memChunk rd t) (memData rd (chunkUnits t.cfg t.win)
      (setTarCache t.port.argAp (some t.win.a) (t.afterPlan (tarPlan right t.win.a) tap clk))) := by
  rw [memChunk_opens hlt]
  cases right with
  | true =>
    have hcached : t.tarCache t.port.argAp = some t.win.a := of_decide_eq_true hright.symm
    have hkept : setTarCache t.port.argAp (some t.win.a) t = t := by rw [← hcached, setTarCache_tarCache]
    have hnone : tarPlan true t.win.a = [] := rfl
    rw [hnone] at hs ⊢
    rw [if_pos hcached, hs.afterPlan_nil, hkept]
    exact .refl _
  | false =>
    have hmiss : t.tarCache t.port.argAp ≠ some t.win.a := of_decide_eq_false hright.symm
    obtain ⟨v, -, hruns⟩ := hs.runs_item hf (k := .mem rd (.tar (chunkUnits t.cfg t.win))) nofun
    rw [if_neg hmiss, ← memData_setCont (.mem rd (.tar (chunkUnits t.cfg t.win)))]
    exact hruns

/-- A chunk of MEM_READ begins with its priming read (R207). -/
theorem runs_prime (hf : t.dp.fault = false) (hs : t.Served (primePlan rd) vals tap clk) :
    Runs (memData rd k t) (memNext rd k (t.afterPlan (primePlan rd) tap clk)) := by
  cases rd with
  | false =>
    have hnone : primePlan false = [] := rfl
    rw [hnone] at hs ⊢
    rw [hs.afterPlan_nil]
    exact .refl _
  | true =>
    obtain ⟨v, -, hruns⟩ := hs.runs_item hf (k := .mem true (.prime k)) nofun
    rw [← memNext_setCont (.mem true (.prime k))]
    exact hruns
end

section
variable {t : State} {rd : Bool} {k n : Nat} {e : Word} {m : List Host.Cell} {vals : List Word} {tap : List TapReply}
  {clk : List Word}

/-- A chunk is open once TAR is right and, for a read, the pipeline is primed (R205, R207). -/
theorem runs_opening {right : Bool} (hlt : t.win.done < t.win.units) (hf : t.dp.fault = false)
    (hright : right = decide (t.tarCache t.port.argAp = some t.win.a))
    (hs : t.Served (tarPlan right t.win.a ++ primePlan rd) vals tap clk) :
    Runs (memChunk rd t) (memNext rd (chunkUnits t.cfg t.win)
      (setTarCache t.port.argAp (some t.win.a) (t.afterPlan (tarPlan right t.win.a ++ primePlan rd) tap clk))) := by
  obtain ⟨vt, vp, mid, clk', rfl, htar, hprime⟩ := hs.append
  have hopen := runs_prime (t := setTarCache t.port.argAp (some t.win.a) (t.afterPlan (tarPlan right t.win.a) mid clk'))
    (rd := rd) (k := chunkUnits t.cfg t.win) hf hprime
  rw [← afterPlan_afterPlan (tap' := mid) (clk' := clk')]
  exact (runs_tar hlt hf hright htar).trans hopen

/-! #### The data loop, unit by unit (R206 to R211) -/

/-- What is left once accesses have set TAR is left of the whole list (R205). -/
theorem transferred_opened (tar tar' : Option Word) (p q : List PlanItem) (tap' : List TapReply) (clk' : List Word) :
    (setTarCache t.port.argAp tar' (t.afterPlan p tap' clk')).transferred q tar m tap clk =
      t.transferred (p ++ q) tar m tap clk :=
  (transferred_setTarCache (t.afterPlan p tap' clk') ..).trans (transferred_afterPlan ..)

/-- From `b` the transfer at `t` runs to its end before address `e`, when the accesses `p` it has left are served OK. -/
def EndsServed (rd : Bool) (t b : State) (p : List PlanItem) (e : Word) : Prop :=
  ∀ vals tap clk, t.Served p vals tap clk →
    Runs b (t.transferred p (tarAfter t.cfg e) (hbufAfter rd t.win (keptValues p vals) t.hbuf) tap clk)

/-- Whatever the chunk, the next `n` units are moved when their accesses are served. -/
def UnitsEnd (rd : Bool) (m : List Host.Cell) (n : Nat) : Prop :=
  ∀ (t : State) (k : Nat) (e : Word), t.win.Ahead n e → t.win.InChunk t.cfg k n → t.dp.fault = false →
    (rd = false → t.hbuf = m) → EndsServed rd t (memNext rd k t) (dataPlan t.cfg m rd false false t.win n) e

/-- From the begin of a chunk (R205, R206). -/
theorem UnitsEnd.chunk (h : UnitsEnd rd m n) {right : Bool} (hn : 0 < n) (hahead : t.win.Ahead n e)
    (hf : t.dp.fault = false) (hm : rd = false → t.hbuf = m)
    (hright : right = decide (t.tarCache t.port.argAp = some t.win.a)) :
    EndsServed rd t (memChunk rd t) (dataPlan t.cfg m rd true right t.win n) e := by
  intro vals tap clk hs
  rw [dataPlan_begins m rd right hn] at hs ⊢
  obtain ⟨vo, vd, mid, clk', rfl, hopens, hdata⟩ := hs.append
  have hdropped : ∀ x ∈ tarPlan right t.win.a ++ primePlan rd, x.keeps = false := fun x hx =>
    (List.mem_append.mp hx).elim (tarPlan_keeps _ _ x) (primePlan_keeps _ x)
  rw [keptValues_append hopens.length, keptValues_eq_nil hdropped, List.nil_append,
    ← transferred_opened (tar' := some t.win.a) (tap' := mid) (clk' := clk')]
  exact (runs_opening (hahead.done_lt_iff.mpr hn) hf hright hopens).trans
    (h (setTarCache t.port.argAp (some t.win.a) (t.afterPlan (tarPlan right t.win.a ++ primePlan rd) mid clk')) _ e
      hahead (hahead.inChunk hn) hf hm vd tap clk hdata)

/-- From the end of a chunk: the transfer ends where no unit is left, else a block begins and TAR is written (R206,
R211). -/
theorem UnitsEnd.chunkEnd (h : UnitsEnd rd m n) (hahead : t.win.Ahead n e)
    (hlast : n = 0 ∨ blockOffset t.cfg t.win.a = 0) (hmem : t.cont.isMem = true) (hf : t.dp.fault = false)
    (hm : rd = false → t.hbuf = m) :
    EndsServed rd t (memChunkEnd rd t) (dataPlan t.cfg m rd true false t.win n) e := by
  intro vals tap clk hs
  have hchunk : memChunkEnd rd t = memChunk rd (setTarCache t.port.argAp (tarAfter t.cfg t.win.a) t) := rfl
  have htar : ∀ tar, (setTarCache t.port.argAp tar t).tarCache t.port.argAp = tar := fun tar => by
    simp [State.tarCache]
  rw [hchunk, ← transferred_setTarCache (tar' := tarAfter t.cfg t.win.a)]
  cases n with
  | zero =>
    obtain ⟨rfl, rfl, rfl⟩ := State.Served.nil hs
    have hdone : ¬ t.win.done < t.win.units := fun hlt => Nat.lt_irrefl 0 (hahead.done_lt_iff.mp hlt)
    have hend : t.win.a = e := by simpa using hahead.ends
    have hbuf : hbufAfter rd t.win [] t.hbuf = t.hbuf := by cases rd <;> rfl
    have hmemDone := memDone_eq (t := setTarCache t.port.argAp (tarAfter t.cfg t.win.a) t) hmem
    have hnone : dataPlan t.cfg m rd true false t.win 0 = [] := rfl
    have hkept : keptValues [] [] = [] := rfl
    rw [setTarCache_port, htar] at hmemDone
    rw [memChunk, setTarCache_win, if_neg hdone, hmemDone, hnone, hkept, hbuf, ← hend]
    exact .refl _
  | succ n =>
    have hboundary : blockOffset t.cfg t.win.a = 0 := hlast.resolve_left (Nat.succ_ne_zero n)
    have hunknown : tarAfter t.cfg t.win.a = none := if_neg (not_not.mpr hboundary)
    refine h.chunk (t := setTarCache t.port.argAp (tarAfter t.cfg t.win.a) t) (Nat.succ_pos n) hahead hf hm ?_ vals tap
      clk hs
    rw [setTarCache_port, htar, hunknown]
    rfl

/-- Only a write sends the buffer's unit (R209). -/
theorem unitItem_load {m' : List Host.Cell} (hm : rd = false → m' = m) (last : Bool) (w : Window) :
    unitItem rd last (w.load m') = unitItem rd last (w.load m) := by
  cases rd with
  | true => rfl
  | false => rw [hm rfl]

/-- The access of the next unit, `k` units of the chunk not yet confirmed, as the data loop lists it (R207, R209). -/
theorem memNext_unitItem (hchunk : t.win.InChunk t.cfg k (n + 1)) (hm : rd = false → t.hbuf = m) {x : PlanItem}
    (hx : x = unitItem rd (n = 0 ∨ blockOffset t.cfg t.win.next.a = 0) (t.win.load m)) :
    memNext rd k t = beginAccess x.rnw x.addr x.wval (.mem rd (.unit k)) t := by
  have hpos := hchunk.pos
  have hlast : k ≤ 1 ↔ (n = 0 ∨ blockOffset t.cfg t.win.next.a = 0) := by
    rw [hchunk.last_iff]
    omega
  subst hx
  rw [memNext_eq, decide_eq_decide.mpr hlast, unitItem_load hm]

/-- A unit is confirmed, `k` units of its chunk remain: the next unit, or the end of the chunk (R206, R207, R209). -/
theorem UnitsEnd.unitDone (h : UnitsEnd rd m n) {k' : Cont} (hk' : k'.isMem = true) (hahead : t.win.Ahead n e)
    (hf : t.dp.fault = false) (hm : rd = false → t.hbuf = m)
    (hlast : (n = 0 ∨ blockOffset t.cfg t.win.a = 0) ↔ k = 0) (hchunk : k ≠ 0 → t.win.InChunk t.cfg k n) :
    EndsServed rd t (memUnitDone rd k (t.setCont k'))
      (dataPlan t.cfg m rd (n = 0 ∨ blockOffset t.cfg t.win.a = 0) false t.win n) e := by
  by_cases hk : k = 0
  · rw [decide_eq_true (hlast.mpr hk), hk]
    exact h.chunkEnd (t := t.setCont k') hahead (hlast.mpr hk) hk' hf hm
  · rw [decide_eq_false (fun hend => hk (hlast.mp hend)), memUnitDone_next hk]
    exact h t k e hahead (hchunk hk) hf hm

/-- The units of a transfer, one after the other, chunk after chunk (R206 to R211). -/
theorem unitsEnd (rd : Bool) (m : List Host.Cell) (n : Nat) : UnitsEnd rd m n := by
  induction n with
  | zero => exact fun t k e _ hchunk => absurd (hchunk.pos.trans hchunk.le) (Nat.not_succ_le_zero 0)
  | succ n ih =>
    intro t k e hahead hchunk hf hm vals tap clk hs
    obtain ⟨item, hitem⟩ : ∃ x, x = unitItem rd (n = 0 ∨ blockOffset t.cfg t.win.next.a = 0) (t.win.load m) :=
      ⟨_, rfl⟩
    have hplan : dataPlan t.cfg m rd false false t.win (n + 1) =
        [item] ++ dataPlan t.cfg m rd (n = 0 ∨ blockOffset t.cfg t.win.next.a = 0) false t.win.next n := by
      rw [hitem]
      rfl
    rw [hplan] at hs ⊢
    obtain ⟨vu, vr, mid, clk', rfl, hunit, hrest⟩ := hs.append
    obtain ⟨v, rfl, hruns⟩ := hunit.runs_item hf (k := .mem rd (.unit k)) nofun
    rw [resume_unit, ← memNext_unitItem hchunk hm hitem] at hruns
    have hlast : (n = 0 ∨ blockOffset t.cfg t.win.next.a = 0) ↔ k - 1 = 0 := by
      have hpos := hchunk.pos
      rw [hchunk.last_iff]
      omega
    have hend := ih.unitDone (t := (t.afterPlan [item] mid clk').unitMoved rd v) (k' := .mem rd (.unit k)) rfl
      hahead.next hf (fun hrd => by rw [← hm hrd, hrd]; rfl) hlast (fun hk => hchunk.next (by omega))
    have hkept (p : List PlanItem) : keptValues ([item] ++ p) ([v] ++ vr) = v :: keptValues p vr := by
      rw [hitem]
      exact keptValues_unitItem ..
    rw [hkept, hahead.hbufAfter_cons, ← transferred_afterPlan (tap' := mid) (clk' := clk')]
    exact hruns.trans (hend vr tap clk hrest)
end

/-! #### SELECT and CSW (R204) -/

/-- CSW of AP `i`, unless the cached one fits (R204). -/
def cswPlan (c : Config) (i : Byte) (sz : BitVec 2) (csw : Option Word) : List PlanItem :=
  if cswFits sz csw then [] else [⟨false, Config.apCsw, cswValue c i sz, false⟩]

/-- The CSW cache of AP `i` once CSW is right (R204). -/
def cswAfter (c : Config) (i : Byte) (sz : BitVec 2) (csw : Option Word) : Option Word :=
  if cswFits sz csw then csw else some (cswValue c i sz)

theorem cswPlan_keeps (c : Config) (i : Byte) (sz : BitVec 2) (csw : Option Word) :
    ∀ x ∈ cswPlan c i sz csw, x.keeps = false := by
  unfold cswPlan
  split <;> simp

section
variable {t : State} {rd : Bool} {vals : List Word} {tap : List TapReply} {clk : List Word}

theorem memCsw_setCont (hlt : t.win.done < t.win.units) (k : Cont) : memCsw rd (t.setCont k) = memCsw rd t := by
  rw [memCsw, memChunk_setCont hlt]
  rfl

/-- The SELECT write served: CSW comes next (R180, R204). -/
theorem resume_memSelect (hlt : t.win.done < t.win.units) (v : Word) :
    resume v .ok (t.setCont (.mem rd .select)) = memCsw rd (setSelCache (some (t.port.argAp, 0)) t) :=
  memCsw_setCont (t := setSelCache (some (t.port.argAp, 0)) t) hlt (.mem rd .select)

/-- The CSW write served: the first chunk comes next (R204). -/
theorem resume_memCsw (hlt : t.win.done < t.win.units) (v : Word) :
    resume v .ok (t.setCont (.mem rd .csw)) =
      memChunk rd (setCswCache t.port.argAp (some (cswValue t.cfg t.port.argAp t.win.sz)) t) :=
  memChunk_setCont (t := setCswCache t.port.argAp (some (cswValue t.cfg t.port.argAp t.win.sz)) t) hlt (.mem rd .csw)

/-- SELECT names the AP, bank 0, by no write where the cache holds the pair (R180, R204). -/
theorem runs_memSelect (hlt : t.win.done < t.win.units) (hf : t.dp.fault = false)
    (hs : t.Served (selectPlan t.dp.selCache t.port.argAp 0) vals tap clk) :
    Runs (memBegin rd t) (memCsw rd (setSelCache (some (t.port.argAp, 0))
      (t.afterPlan (selectPlan t.dp.selCache t.port.argAp 0) tap clk))) := by
  unfold memBegin
  by_cases hhit : t.dp.selCache = some (t.port.argAp, 0)
  · rw [selectPlan, if_pos hhit] at hs ⊢
    rw [ensureSelect_hit _ hhit, hs.afterPlan_nil, setSelCache_selCache hhit]
    exact .refl _
  · rw [selectPlan, if_neg hhit] at hs ⊢
    obtain ⟨v, -, hruns⟩ := hs.runs_item hf (k := .mem rd .select) nofun
    rw [ensureSelect_miss _ hhit]
    rw [resume_memSelect] at hruns
    exacts [hruns, hlt]

/-- CSW is written unless the cached one fits (R204). -/
theorem runs_memCsw (hlt : t.win.done < t.win.units) (hf : t.dp.fault = false)
    (hs : t.Served (cswPlan t.cfg t.port.argAp t.win.sz (t.cswCache t.port.argAp)) vals tap clk) :
    Runs (memCsw rd t) (memChunk rd (setCswCache t.port.argAp
      (cswAfter t.cfg t.port.argAp t.win.sz (t.cswCache t.port.argAp))
      (t.afterPlan (cswPlan t.cfg t.port.argAp t.win.sz (t.cswCache t.port.argAp)) tap clk))) := by
  unfold memCsw
  by_cases hfits : cswFits t.win.sz (t.cswCache t.port.argAp) = true
  · rw [cswPlan, if_pos hfits] at hs ⊢
    rw [if_pos hfits, cswAfter, if_pos hfits, hs.afterPlan_nil, setCswCache_cswCache]
    exact .refl _
  · rw [cswPlan, if_neg hfits] at hs ⊢
    obtain ⟨v, -, hruns⟩ := hs.runs_item hf (k := .mem rd .csw) nofun
    rw [if_neg hfits, cswAfter, if_neg hfits]
    rw [resume_memCsw] at hruns
    exacts [hruns, hlt]
end

/-! #### The whole transfer -/

/-- The window of R202 covers the range of the transfer. -/
theorem windowOf_ahead (addr len : Word) :
    (windowOf addr len).Ahead (windowOf addr len).units.toNat (addr + len) where
  size := (accessSize_divides addr len).1
  aligned := (accessSize_divides addr len).2.1
  left := Nat.zero_add _
  ends := by
    have hlen : BitVec.ofNat 32 (windowOf addr len).units.toNat * unitBytes (accessSize addr len) = len := by
      rw [unitBytes_eq_ofNat, ← BitVec.ofNat_mul, windowOf, units_mul_unitSize, BitVec.ofNat_toNat,
        BitVec.setWidth_eq]
    exact congrArg (addr + ·) hlen

/-- A transfer that is not empty has a unit (R202). -/
theorem windowOf_units_pos (addr : Word) {len : Word} (h : len ≠ 0) : 0 < (windowOf addr len).units.toNat := by
  have hlen := units_mul_unitSize addr len
  refine Nat.pos_of_ne_zero fun hzero => h (BitVec.eq_of_toNat_eq ?_)
  rw [← hlen]
  show (windowOf addr len).units.toNat * _ = 0
  rw [hzero, Nat.zero_mul]

/-- The window of the memory command that stands at the port (R202). -/
def State.memWindow (s : State) : Window := windowOf s.port.argAddr s.port.argLen

/-- The accesses before the data loop (R204). -/
def setupPlan (s : State) : List PlanItem :=
  selectPlan s.dp.selCache s.port.argAp 0 ++
    cswPlan s.cfg s.port.argAp s.memWindow.sz (s.cswCache s.port.argAp)

/-- The accesses of the data loop (R205 to R211). -/
def loopPlan (rd : Bool) (s : State) : List PlanItem :=
  dataPlan s.cfg s.hbuf rd true (s.tarCache s.port.argAp = some s.port.argAddr) s.memWindow s.memWindow.units.toNat

/-- The number of units (R202). -/
theorem memWindow_units (s : State) : s.memWindow.units.toNat =
    s.port.argLen.toNat / unitSize (accessSize s.port.argAddr s.port.argLen) := by
  show (s.port.argLen >>> (accessSize s.port.argAddr s.port.argLen).toNat).toNat = _
  rw [BitVec.toNat_ushiftRight, Nat.shiftRight_eq_div_pow]
  rfl

/-- The accesses of a memory command: the set-up, then the data loop over the window (R204 to R211). -/
theorem memPlan_eq (rd : Bool) (s : State) : memPlan rd s = setupPlan s ++ loopPlan rd s := by
  have hread (right : Bool) := readPlan_eq_dataPlan (c := s.cfg) (w := s.memWindow) (n := s.memWindow.units.toNat)
    s.hbuf true right
  have hwrite (right : Bool) := writePlan_eq_dataPlan (c := s.cfg) s.hbuf true right
    (windowOf_ahead s.port.argAddr s.port.argLen)
  unfold memPlan loopPlan
  dsimp only
  rw [← memWindow_units]
  cases rd with
  | true => exact congrArg _ (hread _)
  | false => exact congrArg _ (hwrite _)

/-- A memory command past its entry checks (R201, R202). -/
theorem beginMem_present {s : State} (rd : Bool) (hv : s.dp.valid = true) (hp : s.apPresent s.port.argAp = true)
    (hlen : s.port.argLen ≠ 0) (hf : s.dp.fault = false) : beginMem rd s = memBegin rd (s.setWin s.memWindow) :=
  (needAp_present _ hv hp).trans ((if_neg hlen).trans (if_neg (by simp [hf])))

/-- The state at the first chunk, once the set-up accesses are served (R204). -/
def State.memReady (s : State) (tap : List TapReply) (clk : List Word) : State :=
  setCswCache s.port.argAp (cswAfter s.cfg s.port.argAp s.memWindow.sz (s.cswCache s.port.argAp))
    ((setSelCache (some (s.port.argAp, 0)) (s.setWin s.memWindow)).afterPlan (setupPlan s) tap clk)

/-- The set-up accesses (R204). -/
theorem runs_setup {s : State} {rd : Bool} {vals : List Word} {tap : List TapReply} {clk : List Word}
    (hlen : s.port.argLen ≠ 0) (hf : s.dp.fault = false) (hs : s.Served (setupPlan s) vals tap clk) :
    Runs (memBegin rd (s.setWin s.memWindow)) (memChunk rd (s.memReady tap clk)) := by
  have hlt : s.memWindow.done < s.memWindow.units :=
    (windowOf_ahead s.port.argAddr s.port.argLen).done_lt_iff.mpr (windowOf_units_pos s.port.argAddr hlen)
  obtain ⟨vs, vc, mid, clk', rfl, hselect, hcsw⟩ := State.Served.append hs
  have hfirst := runs_memSelect (t := s.setWin s.memWindow) (rd := rd) hlt hf hselect
  have hsecond := runs_memCsw (t := setSelCache (some (s.port.argAp, 0))
    ((s.setWin s.memWindow).afterPlan (selectPlan s.dp.selCache s.port.argAp 0) mid clk')) (rd := rd) hlt hf hcsw
  rw [State.memReady, setupPlan, ← afterPlan_afterPlan (tap' := mid) (clk' := clk')]
  exact hfirst.trans hsecond

/-- A transfer that is not empty makes an access. -/
theorem memPlan_ne_nil (rd : Bool) {s : State} (hlen : s.port.argLen ≠ 0) : memPlan rd s ≠ [] := by
  obtain ⟨n, hn⟩ := Nat.exists_eq_succ_of_ne_zero (windowOf_units_pos s.port.argAddr hlen).ne'
  have hunits : s.memWindow.units.toNat = n + 1 := hn
  rw [memPlan_eq, loopPlan, hunits, dataPlan]
  simp

/-- The record of the AP: CSW as set up, TAR as the last chunk leaves it (R204, R211). -/
theorem change_memApAfter (s : State) :
    ApTable.change s.port.argAp (fun p => { p with tarCache := tarAfter s.cfg (s.port.argAddr + s.port.argLen) })
      (ApTable.change s.port.argAp (fun p => { p with
        cswCache := cswAfter s.cfg s.port.argAp s.memWindow.sz (s.cswCache s.port.argAp) }) s.aps) =
      ApTable.change s.port.argAp (memApAfter s) s.aps := by
  rw [ApTable.change_change]
  exact ApTable.change_congr rfl

/-- What the transfer leaves, from its first chunk on, is what the whole command leaves (R204, R206, R211). -/
theorem memReady_transferred (rd : Bool) {s : State} (hlen : s.port.argLen ≠ 0) (m : List Host.Cell)
    (tap tap' : List TapReply) (clk clk' : List Word) :
    (s.memReady tap' clk').transferred (loopPlan rd s) (tarAfter s.cfg (s.port.argAddr + s.port.argLen)) m tap clk =
      memStateAfter rd s m tap clk := by
  have hne := memPlan_ne_nil rd hlen
  have hwhole := transferred_afterPlan (setCswCache s.port.argAp
    (cswAfter s.cfg s.port.argAp s.memWindow.sz (s.cswCache s.port.argAp))
    (setSelCache (some (s.port.argAp, 0)) (s.setWin s.memWindow))) (setupPlan s) (loopPlan rd s)
    (tarAfter s.cfg (s.port.argAddr + s.port.argLen)) m tap tap' clk clk'
  rw [← memPlan_eq] at hwhole
  refine hwhole.trans ?_
  rw [State.transferred, State.afterPlan, memStateAfter, if_neg hne, if_neg hne, ← change_memApAfter]
  rfl

theorem setupPlan_keeps (s : State) : ∀ x ∈ setupPlan s, x.keeps = false := fun x hx =>
  (List.mem_append.mp hx).elim (selectPlan_keeps _ _ _ x) (cswPlan_keeps _ _ _ _ x)

/-- Nothing is kept of the set-up accesses (R204). -/
theorem keptValues_memPlan {rd : Bool} {s : State} {vs vl : List Word} (h : vs.length = (setupPlan s).length) :
    keptValues (memPlan rd s) (vs ++ vl) = keptValues (loopPlan rd s) vl := by
  rw [memPlan_eq, keptValues_append h, keptValues_eq_nil (setupPlan_keeps s), List.nil_append]

/-- One value is kept for each unit (R207). -/
theorem length_keptValues_memPlan {rd : Bool} {s : State} {vals : List Word} (h : vals.length = (memPlan rd s).length) :
    (keptValues (memPlan rd s) vals).length = s.memWindow.units.toNat := by
  have hsetup : (setupPlan s).countP (·.keeps) = 0 :=
    List.countP_eq_zero.mpr fun x hx => by simp [setupPlan_keeps s x hx]
  rw [length_keptValues h, memPlan_eq, List.countP_append, hsetup, loopPlan, countP_keeps_dataPlan, Nat.zero_add]

/-- A memory command with every access served OK (R200 to R211). -/
theorem runs_transfer {s : State} (rd : Bool) {vals : List Word} {tap : List TapReply} {clk : List Word}
    (hv : s.dp.valid = true) (hp : s.apPresent s.port.argAp = true) (hf : s.dp.fault = false)
    (hlen : s.port.argLen ≠ 0) (hs : s.Served (memPlan rd s) vals tap clk) :
    Runs (beginMem rd s)
      (memStateAfter rd s (hbufAfter rd s.memWindow (keptValues (memPlan rd s) vals) s.hbuf) tap clk) := by
  rw [memPlan_eq] at hs
  obtain ⟨vs, vl, mid, clk', rfl, hsetup, hloop⟩ := hs.append
  have hright : (s.memReady mid clk').tarCache s.port.argAp = s.tarCache s.port.argAp := by
    rw [State.memReady, State.tarCache, ap_setCswCache, if_pos rfl]
    rfl
  have hchunks := (unitsEnd rd s.hbuf s.memWindow.units.toNat).chunk (t := s.memReady mid clk')
    (windowOf_units_pos s.port.argAddr hlen) (windowOf_ahead s.port.argAddr s.port.argLen) hf (fun _ => rfl)
    (congrArg (fun tar => decide (tar = some s.port.argAddr)) hright.symm) vl tap clk hloop
  rw [beginMem_present rd hv hp hlen hf, keptValues_memPlan hsetup.length,
    ← memReady_transferred rd hlen _ tap mid clk clk']
  exact (runs_setup hlen hf hsetup).trans hchunks

/-- HBUF after MEM_READ: the bytes of the units, and beyond them what it held (R208, R214, log 14). -/
theorem read_hbufAfter (s : State) (vs : List Word) (j : Nat) :
    Memory.read (hbufAfter true s.memWindow vs s.hbuf) j =
      ((laneBytes s.memWindow.sz s.port.argAddr vs)[j]?).getD (s.hbufByte j) := by
  show Memory.read (Memory.writeBytes s.hbuf (0 * unitSize s.memWindow.sz) _) j = _
  rw [Nat.zero_mul, Memory.read_writeBytes, if_pos (Nat.zero_le j), Nat.sub_zero]
  rfl

/-- Settles O57: the transfer of MEM_READ, and the bytes of the units it has stored. -/
theorem memReadTransfers : Obligations.MemReadTransfers := by
  intro s vals tap nows clk hst hv hp hf hlen p sz units hs hclk hcount
  have hruns := runs_transfer true hv hp hf hlen ⟨hs, nows, hclk, hcount⟩
  rw [exec_begun (i := .memRead) rfl hst rfl]
  refine ⟨?count, _, launch_of_runs hruns rfl, fun j => ?byte⟩
  case count => exact (length_keptValues_memPlan (servesPlan_length hs)).trans (memWindow_units s)
  case byte =>
    rw [read_hbufAfter, laneBytes_getElem?]
    by_cases hin : j / 2 ^ sz.toNat < units.length
    · rw [dif_pos hin]
      exact congrArg (fun v => (Option.map _ v).getD _) (List.getElem?_eq_getElem hin)
    · rw [dif_neg hin]
      exact congrArg (fun v => (Option.map _ v).getD _) (List.getElem?_eq_none (not_lt.mp hin))

/-- Settles O58: the transfer of MEM_WRITE, which stores nothing in HBUF. -/
theorem memWriteTransfers : Obligations.MemWriteTransfers := by
  intro s vals tap nows clk hst hv hp hf hlen p hs hclk hcount
  have hruns := runs_transfer false hv hp hf hlen ⟨hs, nows, hclk, hcount⟩
  rw [exec_begun (i := .memWrite) rfl hst rfl]
  exact launch_of_runs hruns rfl

end Sys2Proof.Machine

/-! ### DP_SCAN answered anything but OK, or with a word of bad parity (R240, R242, R243) -/

namespace Sys2Proof.Machine

/-! #### An acknowledge but OK (R243) -/

section
variable {s : State}

/-- Taking an acknowledge is no move of the command (R132, R133). -/
theorem receiveAck_cont (s : State) : (receiveAck s).cont = s.cont := by
  rw [receiveAck_calls]

/-- A failed acknowledge of DP_SCAN: its one call, and the command is complete (R240, R242). -/
theorem scanFailed_receiveAck (hc : s.cont = .scan) :
    scanFailed (receiveAck s) = { s with trace := .seqIn 3 :: s.trace }.completed .noDp := by
  have hcalls : s.ackCalls = [.seqIn 3] := by rw [State.ackCalls, wire_eq, if_pos hc]
  have hmem : (receiveAck s).cont.isMem = false := by rw [receiveAck_cont, hc]; rfl
  rw [scanFailed, finish_eq_completed hmem, receiveAck_calls, hcalls]
  rfl

/-- In DP_SCAN a WAIT is not retried (R243). -/
theorem acceptWait_scan (hc : s.cont = .scan) : acceptWait s = scanFailed (receiveAck s) :=
  if_pos ((receiveAck_cont s).trans hc)

/-- In DP_SCAN a FAULT is not latched (R243). -/
theorem acceptFault_scan (hc : s.cont = .scan) : acceptFault s = scanFailed (receiveAck s) :=
  if_pos ((receiveAck_cont s).trans hc)

/-- In DP_SCAN an invalid pattern raises nothing (R242, R243). -/
theorem acceptInvalid_scan (hc : s.cont = .scan) : acceptInvalid s = scanFailed (receiveAck s) :=
  if_pos ((receiveAck_cont s).trans hc)

/-- The reactions to an acknowledge other than OK are three (R135 to R138). -/
theorem react_of_not_ok {b : BitVec 3} (hb : b ≠ 0b001) :
    react b = acceptWait ∨ react b = acceptFault ∨ react b = acceptInvalid := by
  rcases bits3_cases b with rfl | rfl | rfl | rfl | rfl | rfl | rfl | rfl
  · exact .inr (.inr rfl)
  · exact absurd rfl hb
  · exact .inl rfl
  · exact .inr (.inr rfl)
  · exact .inr (.inl rfl)
  · exact .inr (.inr rfl)
  · exact .inr (.inr rfl)
  · exact .inr (.inr rfl)

/-- In DP_SCAN the reaction to every acknowledge other than OK is the same (R243). -/
theorem react_scan {b : BitVec 3} (hb : b ≠ 0b001) (hc : s.cont = .scan) :
    react b s = scanFailed (receiveAck s) := by
  rcases react_of_not_ok hb with h | h | h <;> rw [h]
  · exact acceptWait_scan hc
  · exact acceptFault_scan hc
  · exact acceptInvalid_scan hc
end

/-- Settles O38: WAIT, FAULT and the five invalid patterns have one meaning in DP_SCAN. -/
theorem scanAckFails : Obligations.ScanAckFails := by
  intro i hi s hst hc
  rw [← scanFailed_receiveAck hc]
  rcases List.mem_cons.mp hi with rfl | hi
  · rw [← acceptWait_scan hc]
    exact inPhase_next (decide_eq_true hst) acceptWait
  rcases List.mem_cons.mp hi with rfl | hi
  · rw [← acceptFault_scan hc]
    exact inPhase_next (decide_eq_true hst) acceptFault
  · rw [← acceptInvalid_scan hc]
    exact exec_ackInvalid hi hst

/-! #### The moves of a scan that fails -/

section
variable (s : State) (v : Word) (calls : List TapCall) (tap : List TapReply)

/-- An acknowledge other than OK ends the scan (R243). -/
theorem linkStep_scan_not_ok {a : TapReply} (ha : a.ack ≠ 0b001) : linkStep (s.scanAt .ack v calls (a :: tap)) =
    .next ({ s with trace := .seqIn 3 :: calls, tapIn := tap }.completed .noDp) := by
  rw [linkStep_ack_swd (r := a) (rest := tap) rfl rfl rfl, show a.bits.extractLsb' 0 3 = a.ack from rfl,
    react_scan ha rfl, scanFailed_receiveAck rfl]
  rfl

/-- A word of bad parity ends the scan (R242). -/
theorem linkStep_scan_bad_data {d : TapReply} (hd : d.parityOk = false) :
    linkStep (s.scanAt .data v calls (d :: tap)) =
      .next ({ s with trace := .seqInPar 32 :: calls, tapIn := tap }.completed .noDp) := by
  rw [linkStep_data_read (r := d) (rest := tap) rfl rfl rfl, receiveData_scan_bad (by simp [hd]) rfl]
  rfl

/-- The first two moves of DP_SCAN lead to its acknowledge, whose call is the last of `scanCalls` (R105, R240). -/
theorem steps_beginDpScan : ∃ sent, .seqIn 3 :: sent = (scanCalls s.cfg.lineResetHighCycles).reverse ++ s.trace ∧
    Steps 2 (beginDpScan s) ((destroyDp s).scanAt .ack 0 sent s.tapIn) := by
  rw [scanCalls_reverse, beginDpScan_eq]
  exact ⟨_, rfl, .cons (linkStep_scan_lineReset _ _ _ _) (.one (linkStep_scan_request _ _ _ _))⟩
end

/-- A command that at most eight moves end is complete in one launch, however many answers it takes (log 5). -/
theorem launch_of_few_steps {s t : State} {j : Nat} (h : Steps j s t) (hj : j ≤ 8) (hans : t.answers ≤ s.answers)
    (ht : t.stage = .idle) : launch s = .next t :=
  launch_of_steps h (by omega) (.refl t) ht

/-- Settles O48: the two moves to the acknowledge, then the acknowledge that fails, or the OK and the word that does. -/
theorem dpScanFails : Obligations.DpScanFails := by
  intro s a rest hst htap calls t
  obtain ⟨sent, hsent, hbegin⟩ := steps_beginDpScan s
  have hgone : destroyDp s = t := destroyDp_eq s
  have hanswers : (beginDpScan s).answers = rest.length + 1 + s.clkIn.length :=
    congrArg (fun l => l.length + s.clkIn.length) htap
  rw [htap, hgone] at hbegin
  rw [exec_command (i := .dpScan) rfl, onIdle_eq _ hst, commandBegin]
  refine ⟨fun ha => ?ack, fun d rest' ha hrest hd => ?parity⟩
  case ack =>
    have hack := linkStep_scan_not_ok t 0 sent rest ha
    rw [hsent] at hack
    refine launch_of_few_steps (hbegin.trans (.one hack)) (by omega) ?_ rfl
    show rest.length + s.clkIn.length ≤ (beginDpScan s).answers
    omega
  case parity =>
    subst hrest
    have hack := linkStep_scan_ok t 0 sent (d :: rest') ha
    rw [hsent] at hack
    refine launch_of_few_steps (hbegin.trans (.cons hack (.one (linkStep_scan_bad_data t 0 _ rest' hd)))) (by omega)
      ?_ rfl
    show rest'.length + s.clkIn.length ≤ (beginDpScan s).answers
    rw [hanswers, List.length_cons]
    omega

end Sys2Proof.Machine

/-! ### The eleven commands without a DebugPort (R265, R111) -/

namespace Sys2Proof.Machine

/-- Writing the status NO_DP is writing the number 4 to RSP_STATUS, every other field as it was (R111). -/
theorem setStatus_noDp_eq (s : State) : setStatus .noDp s = { s with port := { s.port with rspStatus := 4 } } := rfl

/-- Settles O43: each of the eleven commands ends where it begins, with the status NO_DP written. -/
theorem noDebugPortRefused : Obligations.NoDebugPortRefused := by
  intro i hi s hst hv
  have hrefused : exec i s = .next (setStatus .noDp s) := exec_noDp hi hst hv
  rw [hrefused, setStatus_noDp_eq]

end Sys2Proof.Machine
